-- ==== Sys2Proof/Word.lean ====
section
/-! DEFINITION. The machine's words: the 32-bit integer word (`i32`), the byte, the 96-bit packed instruction record, and the
narrowing and widening functions of spec/00_scope.md rules R9 and R10. -/

namespace Sys2Proof

/-- A 32-bit word. It denotes an `i32` by two's complement (`toInt`), as spec/00_scope.md R9 reads it. -/
abbrev Word := BitVec 32

/-- One byte of the memory block (spec/20_memory.md R50). -/
abbrev Byte := BitVec 8

/-- The packed form of an instruction record: opcode, `ref0`, `ref1` (spec/30_encoding.md R86). -/
abbrev PackedRecord := BitVec 96

/-- `wrap32(n)`: the unique `i32` congruent to `n` modulo 2^32 (spec/00_scope.md R10). -/
def wrap32 (n : Int) : Word := BitVec.ofInt 32 n

/-- `u32(v)`: the unsigned reading of an `i32` (spec/00_scope.md R10). -/
def u32 (v : Word) : Nat := v.toNat

/-- `zext_N(v)` (spec/00_scope.md R10). -/
def zext {n : Nat} (v : BitVec n) : Word := v.setWidth 32

/-- `sext_N(v)` (spec/00_scope.md R10; no instruction of the core uses it). -/
def sext {n : Nat} (v : BitVec n) : Word := v.signExtend 32

end Sys2Proof
end

