-- ==== Sys2Proof/Config.lean ====
section
/-! DEFINITION. The parameters of the core that no instruction changes (spec/00_scope.md R6): sizes, reserved slot indices,
byte order of the host's view, and the Program (instruction store and entry index). They are arguments of every rule; the state
carries them as plain data (log 1), so a statement about every state holds for every value of every parameter. The spec leaves
no value undefined after an instruction that completes, so there is no free value here. -/

namespace Sys2Proof

/-- The order of a cell's four bytes in a byte view of the block (spec/20_memory.md R53, D16). No program can observe it. -/
inductive ByteOrder where
  /-- Byte `4c` holds bits 7:0 of cell `c`: the spec's default. -/
  | little
  /-- Byte `4c` holds bits 31:24 of cell `c` (DESIGN CHOICE, log 5: the spec names the parameter, not this value). -/
  | big
deriving DecidableEq, Repr

/-- The numeric parameters of spec/00_scope.md R6. -/
structure Config where
  /-- `MEM_BYTES`, the size of the memory block in bytes (open, D6). -/
  memBytes : Nat
  /-- `STACK_BYTES`, the size of the stack region in bytes (open, D6). -/
  stackBytes : Nat
  /-- `IDX_SP`, the slot that is the stack pointer (D2). -/
  idxSp : Fin 17
  /-- `IDX_SB`, the slot that is the stack base (D2). -/
  idxSb : Fin 17
  /-- `IDX_IP`, the slot that is the instruction pointer (D2). -/
  idxIp : Fin 17
  /-- `BYTE_ORDER` of the host's byte view (D16). -/
  byteOrder : ByteOrder
deriving DecidableEq, Repr

namespace Config

/-- `MEM_CELLS = MEM_BYTES / 4`; also `STACK_TOP` (spec/00_scope.md R6). -/
def memCells (c : Config) : Nat := c.memBytes / 4

/-- `STACK_CELLS = STACK_BYTES / 4`, the capacity of the stack in words (spec/00_scope.md R6). -/
def stackCells (c : Config) : Nat := c.stackBytes / 4

/-- `STACK_LIMIT`, the lowest cell index of the stack region (spec/00_scope.md R6). -/
def stackLimit (c : Config) : Nat := c.memCells - c.stackCells

/-- The spec's default reserved indices and byte order (D2, D16), with the sizes of its test vectors (DESIGN CHOICE, log 2:
the sizes are open in the spec). -/
def default : Config :=
  { memBytes := 4096, stackBytes := 256, idxSp := 6, idxSb := 7, idxIp := 8, byteOrder := .little }

end Config

/-- The Program: the instruction store `PROG` in packed form and the entry index `START` (spec/30_encoding.md R80, R86;
spec/00_scope.md R6). `N_INSTR` is the length of `code`. -/
structure Program where
  code : List PackedRecord
  start : Word
deriving DecidableEq, Repr

end Sys2Proof
end

