-- ==== Sys2Proof/Machine/State.lean ====
section
/-! DEFINITION. The machine's state as plain data (spec/10_state.md R20 to R42), the faults and refusals, creation
(spec/70_reset_and_hazards.md R280) and the state after reset (spec/10_state.md R39). -/

namespace Sys2Proof.Machine

/-- A register slot's tagged value: an integer or a cell index, never both (spec/10_state.md R21). -/
inductive Slot where
  /-- `Int(v)`. -/
  | int (v : Word)
  /-- `Addr(a)`, `a` a cell index, `0 <= a <= MEM_CELLS`. -/
  | addr (a : Nat)
deriving DecidableEq, Repr

/-- The nine faults with the value each records (spec/60_exceptions.md R252). An instruction that raises one TAKES it: the next
state is the state before it with `status = Faulted` (R251, `State.takeFault`). `Machine.step` answers `.fault` with the recorded
fault when it is asked to step a core whose status is already `Faulted` (R42: no further step is taken). -/
inductive Fault where
  /-- Code 1. The index in `ip` is not in `0 .. N_INSTR-1` at fetch. Raised by `fetch`. Safe (D25: the original reads past its
  array). -/
  | fetchRange (index : Word)
  /-- Code 2. The opcode is neither -1 nor in 0..31, or the packed word is `Invalid`. Raised by `fetch` (decoding), and by
  `hostStep` on a sentinel record. Safe (D10). -/
  | illegalOpcode (opcode : Word)
  /-- Code 3. An operand the instruction uses is absent. Raised by `rd` and `wr`. Safe (D21). -/
  | malformedOperand (pos : Fin 2)
  /-- Code 4. `RegisterSlot(i)` with `i > 16`, or `MemoryCell(c)` with `c >= MEM_CELLS`, used by the instruction. Raised by `rd`
  and `wr`. Safe (D24). -/
  | operandRange (pos : Fin 2) (index : Nat)
  /-- Code 5. A slot holding `Addr` is read as an integer operand, or `sp` holds `Int` when a stack primitive needs it. Raised by
  `rd`, `pushWord`, `popRead`, `popAdvance`. Safe (D7). -/
  | tagFault (slot : Fin 17)
  /-- Code 6. The divisor is 0. Raised by `div` and `mod`. Safe (D11). -/
  | divideByZero
  /-- Code 7. The shift count is below 0 or above 31. Raised by `shl` and `shr`. Safe (D14). -/
  | shiftRange (count : Word)
  /-- Code 8. A push with `sp = Addr(a)`, `a <= STACK_LIMIT`. Raised by `pushWord`. Safe (D17). -/
  | stackOverflow (a : Nat)
  /-- Code 9. A pop with `sp = Addr(a)`, `a >= MEM_CELLS`. Raised by `popRead`. Safe (D18). -/
  | stackUnderflow (a : Nat)
deriving DecidableEq, Repr

/-- The code of a fault (spec/60_exceptions.md R252; the codes are the spec's decision D9). -/
def Fault.code : Fault → Nat
  | .fetchRange _ => 1
  | .illegalOpcode _ => 2
  | .malformedOperand _ => 3
  | .operandRange _ _ => 4
  | .tagFault _ => 5
  | .divideByZero => 6
  | .shiftRange _ => 7
  | .stackOverflow _ => 8
  | .stackUnderflow _ => 9

/-- Why a step has no meaning. -/
inductive Refusal where
  /-- An instruction without a meaning, rejected by name in `exec`'s arm. No arm uses it: every instruction is modelled. Safe. -/
  | notModelled (mnemonic : String)
  /-- Raised by `step` when the core is Halted: a halted state is final, and before `run` nothing executes (spec/10_state.md R42,
  log 7). Safe: the model stops where the core does. -/
  | notRunning
deriving DecidableEq, Repr

/-- `status` (spec/10_state.md R42). `faulted` keeps the fault with its info and the index of the faulting instruction
(spec/60_exceptions.md R257). -/
inductive Status where
  | running
  | halted
  | faulted (cause : Fault) (index : Word)
deriving DecidableEq, Repr

/-- The memory block: the bytes that differ from 0, by byte address, addresses strictly rising (`Memory.wf`). An unlisted byte
reads as 0, the block's reset contents (spec/10_state.md R33, R39; log 4). -/
abbrev Memory := List Host.Cell

/-- The state of the core (spec/10_state.md R20) with its parameters and Program (configuration, log 1). -/
structure State where
  /-- The parameters (spec/00_scope.md R6). -/
  cfg : Config
  /-- `PROG` and `START` (spec/10_state.md R20, R35). -/
  program : Program
  /-- The register file `x[0..16]` (spec/10_state.md R22). -/
  regs : Vector Slot 17
  /-- `FLAGS`: bit 0 is `E`, bit 1 is `G` (spec/10_state.md R29). -/
  flags : BitVec 2
  /-- `REM` (spec/10_state.md R31). -/
  rem : Word
  /-- The memory block (spec/10_state.md R33). -/
  mem : Memory
  /-- `Out`, oldest first (spec/10_state.md R36). -/
  out : List Word
  /-- `status` (spec/10_state.md R42). -/
  status : Status
deriving DecidableEq, Repr

/-- The register file after creation: every slot `Int(0)` but `sp` and `sb`, which hold the end of the block
(spec/70_reset_and_hazards.md R280; spec/10_state.md R34). -/
def createdRegs (cfg : Config) : Vector Slot 17 :=
  ((Vector.replicate 17 (Slot.int 0)).set cfg.idxSb.val (.addr cfg.memCells)).set cfg.idxSp.val (.addr cfg.memCells)

/-- The host's `create` (spec/70_reset_and_hazards.md R280; spec/10_state.md R39). The Program store is empty until the host
loads a Program (log 8). -/
def State.create (cfg : Config) : State :=
  { cfg := cfg
    program := { code := [], start := 0 }
    regs := createdRegs cfg
    flags := 0
    rem := 0
    mem := []
    out := []
    status := .halted }

/-- The machine right after reset (spec/10_state.md R39), with the default configuration (log 2, log 3). -/
def State.reset : State := State.create Config.default

end Sys2Proof.Machine
end

