-- ==== Sys2Proof/Machine/Alu.lean ====
section
/-! DEFINITION. The value each arithmetic, logic and shift instruction computes (spec/43_arithmetic.md, spec/44_logic_shift.md;
helpers of spec/00_scope.md R10): the exact integer first, then `wrap32`. -/

namespace Sys2Proof.Machine

/-- `tdiv(a, b)` for `b != 0`: `sign(a) * sign(b) * floor(|a| / |b|)` (spec/00_scope.md R10, D13). -/
def tdiv (a b : Int) : Int := a.sign * b.sign * ((a.natAbs / b.natAbs : Nat) : Int)

/-- `tmod(a, b) = a - b * tdiv(a, b)` (spec/00_scope.md R10, D13). -/
def tmod (a b : Int) : Int := a - b * tdiv a b

/-- `wrap32(a + 1)` (spec/43_arithmetic.md R160). -/
def aluInc (a : Word) : Word := wrap32 (a.toInt + 1)

/-- `wrap32(a - 1)` (spec/43_arithmetic.md R161). -/
def aluDec (a : Word) : Word := wrap32 (a.toInt - 1)

/-- `wrap32(a + b)` (spec/43_arithmetic.md R162). -/
def aluAdd (a b : Word) : Word := wrap32 (a.toInt + b.toInt)

/-- `wrap32(a - b)` (spec/43_arithmetic.md R163). -/
def aluSub (a b : Word) : Word := wrap32 (a.toInt - b.toInt)

/-- `wrap32(a * b)` (spec/43_arithmetic.md R164). -/
def aluMul (a b : Word) : Word := wrap32 (a.toInt * b.toInt)

/-- `wrap32(tdiv(a, b))`, `DivideByZero` for `b = 0` (spec/43_arithmetic.md R165; `-2^31 / -1` wraps, D12, log 11). -/
def aluDiv (a b : Word) : Except Fault Word :=
  if b = 0 then .error .divideByZero else .ok (wrap32 (tdiv a.toInt b.toInt))

/-- `tmod(a, b)`, `DivideByZero` for `b = 0` (spec/43_arithmetic.md R166); the result is an `i32`, so `wrap32` keeps it. -/
def aluMod (a b : Word) : Except Fault Word :=
  if b = 0 then .error .divideByZero else .ok (wrap32 (tmod a.toInt b.toInt))

/-- `bnot(a) = -a - 1` (spec/00_scope.md R10; spec/44_logic_shift.md R180). -/
def aluNot (a : Word) : Word := ~~~a

/-- `bxor(a, b)` (spec/44_logic_shift.md R181). -/
def aluXor (a b : Word) : Word := a ^^^ b

/-- `bor(a, b)` (spec/44_logic_shift.md R182). -/
def aluOr (a b : Word) : Word := a ||| b

/-- `band(a, b)` (spec/44_logic_shift.md R183). -/
def aluAnd (a b : Word) : Word := a &&& b

/-- A shift count outside 0..31 raises `ShiftRange`; the count is signed (spec/44_logic_shift.md R187). -/
def shiftCount (n : Word) : Except Fault Nat :=
  if n.toInt < 0 ∨ 31 < n.toInt then .error (.shiftRange n) else .ok n.toNat

/-- `wrap32(a * 2^n)` (spec/44_logic_shift.md R184). -/
def aluShl (a n : Word) : Except Fault Word := do
  let k ← shiftCount n
  .ok (wrap32 (a.toInt * 2 ^ k))

/-- `floor(a / 2^n)`: arithmetic, rounding toward minus infinity (spec/44_logic_shift.md R185, D14). -/
def aluShr (a n : Word) : Except Fault Word := do
  let k ← shiftCount n
  .ok (wrap32 (a.toInt.fdiv (2 ^ k)))

end Sys2Proof.Machine
end

