-- ==== Sys2Proof/Syntax.lean ====
section
/-! DEFINITION. Operand references and the instructions: one constructor per row of spec/opcode_table.json, in the table's
order, the sentinel record last (spec/30_encoding.md R80 to R84). An instruction carries the operand positions below its arity;
the positions beyond it are ignored by the core (R82) and have no place here. -/

namespace Sys2Proof

/-- A resolved operand reference (spec/30_encoding.md R80, R81). -/
inductive Ref where
  /-- The marker of an operand position that the record does not fill. -/
  | absent
  /-- `RegisterSlot(i)`: names `x[i]`. -/
  | registerSlot (i : Nat)
  /-- `MemoryCell(c)`: names `Mem[c]`. -/
  | memoryCell (c : Nat)
deriving DecidableEq, Repr

/-- The 32 instructions and the sentinel (spec/30_encoding.md R84, R83). -/
inductive Instr where
  | nop
  | int
  | mov (op0 op1 : Ref)
  | push (op0 : Ref)
  | pop (op0 : Ref)
  | pushf
  | popf (op0 : Ref)
  | inc (op0 : Ref)
  | dec (op0 : Ref)
  | add (op0 op1 : Ref)
  | sub (op0 op1 : Ref)
  | mul (op0 op1 : Ref)
  | div (op0 op1 : Ref)
  | mod (op0 op1 : Ref)
  | rem (op0 : Ref)
  | not (op0 : Ref)
  | xor (op0 op1 : Ref)
  | or (op0 op1 : Ref)
  | and (op0 op1 : Ref)
  | shl (op0 op1 : Ref)
  | shr (op0 op1 : Ref)
  | cmp (op0 op1 : Ref)
  | jmp (op0 : Ref)
  | call (op0 : Ref)
  | ret
  | je (op0 : Ref)
  | jne (op0 : Ref)
  | jg (op0 : Ref)
  | jge (op0 : Ref)
  | jl (op0 : Ref)
  | jle (op0 : Ref)
  | prn (op0 : Ref)
  | sentinel
deriving DecidableEq, Repr

/-- The operand references an instruction uses, in order (the arity column of spec/30_encoding.md R84 is the list's length). -/
def Instr.operands : Instr → List Ref
  | .nop | .int | .pushf | .ret | .sentinel => []
  | .push a | .pop a | .popf a | .inc a | .dec a | .rem a | .not a | .jmp a | .call a => [a]
  | .je a | .jne a | .jg a | .jge a | .jl a | .jle a | .prn a => [a]
  | .mov a b | .add a b | .sub a b | .mul a b | .div a b | .mod a b => [a, b]
  | .xor a b | .or a b | .and a b | .shl a b | .shr a b | .cmp a b => [a, b]

/-- How many operand positions the instruction uses (spec/30_encoding.md R82, R84). -/
def Instr.arity (i : Instr) : Nat := i.operands.length

/-- Operand position 0 of the record: `absent` beyond the arity. -/
def Instr.op0 (i : Instr) : Ref := i.operands.getD 0 .absent

/-- Operand position 1 of the record: `absent` beyond the arity. -/
def Instr.op1 (i : Instr) : Ref := i.operands.getD 1 .absent

end Sys2Proof
end

