-- ==== Sys2Proof/WellFormed.lean ====
section
/-! DEFINITION. The static checks: a reference that the record of spec/30_encoding.md R80 can hold, a reference that is valid
for a memory size (R81), an instruction all of whose used operands are valid (R91 item 4), and the constraints on the parameters
(spec/00_scope.md R6). -/

namespace Sys2Proof

/-- The index fits the reference field: `0 .. 2^30-1` (spec/30_encoding.md R80). -/
def Ref.wf : Ref → Bool
  | .absent => true
  | .registerSlot i => decide (i < 2 ^ 30)
  | .memoryCell c => decide (c < 2 ^ 30)

/-- Every operand fits its reference field (spec/30_encoding.md R80): the instruction can be encoded. -/
def Instr.wf (i : Instr) : Bool := i.operands.all Ref.wf

/-- A reference that an instruction can use: a slot of 0..16 or a cell of the block, and not absent
(spec/30_encoding.md R81). -/
def Ref.valid (memCells : Nat) : Ref → Bool
  | .absent => false
  | .registerSlot i => decide (i < 17)
  | .memoryCell c => decide (c < memCells)

/-- Each operand position below the arity is a valid reference and not absent (spec/30_encoding.md R91 item 4). -/
def Instr.valid (memCells : Nat) (i : Instr) : Bool := i.operands.all (Ref.valid memCells)

/-- The constraints of spec/00_scope.md R6 on the parameters: `MEM_BYTES` a multiple of 4 with `4 <= MEM_BYTES <= 2^32`,
`STACK_BYTES` a multiple of 4 with `STACK_BYTES <= MEM_BYTES`, and the three reserved indices distinct. -/
abbrev Config.wf (c : Config) : Prop :=
  4 ∣ c.memBytes ∧ 4 ≤ c.memBytes ∧ c.memBytes ≤ 2 ^ 32 ∧
  4 ∣ c.stackBytes ∧ c.stackBytes ≤ c.memBytes ∧
  c.idxSp ≠ c.idxSb ∧ c.idxSp ≠ c.idxIp ∧ c.idxSb ≠ c.idxIp

end Sys2Proof
end

