-- ==== Sys2Proof/Decode.lean ====
section
/-! DEFINITION. The decoder of packed records (spec/30_encoding.md R86, R87), total on every 96-bit word and rejecting by name,
and the encoder written from the same table. The opcode numbers stand in ONE place, `Instr.opcode` (R84; the numbers are the
spec's decision D1, log 10). -/

namespace Sys2Proof

/-- Why a packed word is `Invalid` (spec/30_encoding.md R87). The machine raises `IllegalOpcode` for each (R90). -/
inductive DecodeError where
  /-- Reference field `pos` has kind `11`, which is reserved. -/
  | reservedKind (pos : Fin 2)
  /-- Reference field `pos` has kind `00` (absent) with a nonzero index. -/
  | absentWithIndex (pos : Fin 2)
  /-- The opcode is neither -1 nor in 0..31. -/
  | unknownOpcode (opcode : Word)
deriving DecidableEq, Repr

/-- The opcode table: the number of each instruction (spec/30_encoding.md R84). -/
def Instr.opcode : Instr → Word
  | .nop => 0
  | .int => 1
  | .mov _ _ => 2
  | .push _ => 3
  | .pop _ => 4
  | .pushf => 5
  | .popf _ => 6
  | .inc _ => 7
  | .dec _ => 8
  | .add _ _ => 9
  | .sub _ _ => 10
  | .mul _ _ => 11
  | .div _ _ => 12
  | .mod _ _ => 13
  | .rem _ => 14
  | .not _ => 15
  | .xor _ _ => 16
  | .or _ _ => 17
  | .and _ _ => 18
  | .shl _ _ => 19
  | .shr _ _ => 20
  | .cmp _ _ => 21
  | .jmp _ => 22
  | .call _ => 23
  | .ret => 24
  | .je _ => 25
  | .jne _ => 26
  | .jg _ => 27
  | .jge _ => 28
  | .jl _ => 29
  | .jle _ => 30
  | .prn _ => 31
  | .sentinel => -1

/-- The opcode of the sentinel, -1 (spec/30_encoding.md R83). -/
def sentinelOpcode : Word := Instr.sentinel.opcode

/-- The 32 instructions with the two references of a record; the positions beyond an instruction's arity are dropped
(spec/30_encoding.md R82). -/
def instructionsWith (r0 r1 : Ref) : List Instr :=
  [.nop, .int, .mov r0 r1, .push r0, .pop r0, .pushf, .popf r0, .inc r0, .dec r0, .add r0 r1, .sub r0 r1,
   .mul r0 r1, .div r0 r1, .mod r0 r1, .rem r0, .not r0, .xor r0 r1, .or r0 r1, .and r0 r1, .shl r0 r1,
   .shr r0 r1, .cmp r0 r1, .jmp r0, .call r0, .ret, .je r0, .jne r0, .jg r0, .jge r0, .jl r0, .jle r0, .prn r0]

/-- The instruction of a record whose opcode is not the sentinel's, by the opcode table. -/
def selectInstr (opc : Word) (r0 r1 : Ref) : Option Instr :=
  (instructionsWith r0 r1).find? fun i => i.opcode == opc

/-- The `opcode` field, bits 95:64 (spec/30_encoding.md R86). -/
def opcodeField (w : PackedRecord) : Word := w.extractLsb' 64 32

/-- The `ref0` field, bits 63:32 (spec/30_encoding.md R86). -/
def ref0Field (w : PackedRecord) : BitVec 32 := w.extractLsb' 32 32

/-- The `ref1` field, bits 31:0 (spec/30_encoding.md R86). -/
def ref1Field (w : PackedRecord) : BitVec 32 := w.extractLsb' 0 32

/-- The `kind` of a reference field, bits 31:30 (spec/30_encoding.md R86). -/
def refKind (f : BitVec 32) : BitVec 2 := f.extractLsb' 30 2

/-- The `index` of a reference field, bits 29:0, unsigned (spec/30_encoding.md R86). -/
def refIndex (f : BitVec 32) : Nat := (f.extractLsb' 0 30).toNat

/-- Reading one reference field (spec/30_encoding.md R86, R87). -/
def decodeRef (pos : Fin 2) (f : BitVec 32) : Except DecodeError Ref :=
  if refKind f = 0b00 then
    if refIndex f = 0 then .ok .absent else .error (.absentWithIndex pos)
  else if refKind f = 0b01 then .ok (.registerSlot (refIndex f))
  else if refKind f = 0b10 then .ok (.memoryCell (refIndex f))
  else .error (.reservedKind pos)

/-- `decode(w)` of spec/30_encoding.md R87: the sentinel with its reference fields ignored, else `Invalid` for a bad reference
field, else `Invalid` for an opcode outside 0..31, else the instruction. -/
def decode (w : PackedRecord) : Except DecodeError Instr :=
  if opcodeField w = sentinelOpcode then .ok .sentinel
  else
    match decodeRef 0 (ref0Field w) with
    | .error e => .error e
    | .ok r0 =>
      match decodeRef 1 (ref1Field w) with
      | .error e => .error e
      | .ok r1 =>
        match selectInstr (opcodeField w) r0 r1 with
        | some i => .ok i
        | none => .error (.unknownOpcode (opcodeField w))

/-- Writing one reference field (spec/30_encoding.md R86). -/
def encodeRef : Ref → BitVec 32
  | .absent => 0
  | .registerSlot i => 0b01#2 ++ BitVec.ofNat 30 i
  | .memoryCell c => 0b10#2 ++ BitVec.ofNat 30 c

/-- The packed word of a record (spec/30_encoding.md R86). -/
def packRecord (opc : Word) (f0 f1 : BitVec 32) : PackedRecord := (opc ++ f0) ++ f1

/-- The packed word of an instruction; the positions beyond its arity are absent (spec/30_encoding.md R80, R86). -/
def encode (i : Instr) : PackedRecord := packRecord i.opcode (encodeRef i.op0) (encodeRef i.op1)

/-- The instruction the decoder reads from a packed word given as a number of `nbits` bits (bit 0 the least significant, as
spec/opcode_table.json numbers it). The hardware stores a record whole, so the record's one 96-bit word is the number itself;
a number of more than 96 bits is no record. -/
def decodeTableWord (nbits w : Nat) : Option Instr :=
  if w % 2 ^ nbits < 2 ^ 96 then (decode (BitVec.ofNat 96 (w % 2 ^ nbits))).toOption else none

end Sys2Proof
end

