-- ==== Sys2Proof/Machine/Memory.lean ====
section
/-! DEFINITION. The memory block: bytes in one canonical form, and the two cell operations `MemRead` and `MemWrite` built on them
(spec/20_memory.md R50 to R53). Byte order is decided here and nowhere else. -/

namespace Sys2Proof.Machine

/-- The byte an unlisted address reads as: the block is zeroed at creation (spec/10_state.md R39). -/
def Memory.blank : Byte := 0

/-- One byte of the block. -/
def Memory.byteAt : Memory → Nat → Byte
  | [], _ => Memory.blank
  | (k, b) :: t, a => if k = a then b else Memory.byteAt t a

/-- Insert a byte before the first higher address. -/
def Memory.insertByte (a : Nat) (v : Byte) : Memory → Memory
  | [] => [(a, v)]
  | (k, b) :: t => if a < k then (a, v) :: (k, b) :: t else (k, b) :: Memory.insertByte a v t

/-- Write one byte, keeping the canonical form: the byte an unlisted address reads as is not listed. -/
def Memory.setByte (m : Memory) (a : Nat) (v : Byte) : Memory :=
  if v = Memory.blank then m.filter (fun c => c.1 != a) else Memory.insertByte a v (m.filter fun c => c.1 != a)

/-- The canonical form: addresses strictly rising, and no listed byte equal to what an unlisted address reads as. -/
abbrev Memory.wf (m : Memory) : Prop :=
  m.Pairwise (fun p q => p.1 < q.1) ∧ ∀ c ∈ m, c.2 ≠ Memory.blank

/-- The bits of byte `k` of a cell start here: `8k` in the little-endian view (spec/20_memory.md R53), mirrored in the big-endian
one (log 5). -/
def byteShift : ByteOrder → Nat → Nat
  | .little, k => 8 * k
  | .big, k => 24 - 8 * k

/-- Byte `k` of a cell's value. -/
def cellByte (order : ByteOrder) (v : Word) (k : Nat) : Byte := v.extractLsb' (byteShift order k) 8

/-- The value of the cell whose bytes 0 to 3 are given. -/
def cellValue (order : ByteOrder) (b0 b1 b2 b3 : Byte) : Word :=
  match order with
  | .little => b3 ++ b2 ++ b1 ++ b0
  | .big => b0 ++ b1 ++ b2 ++ b3

/-- `MemRead(c, 4)` (spec/20_memory.md R52). -/
def Memory.readCell (order : ByteOrder) (m : Memory) (c : Nat) : Word :=
  cellValue order (m.byteAt (4 * c)) (m.byteAt (4 * c + 1)) (m.byteAt (4 * c + 2)) (m.byteAt (4 * c + 3))

/-- `MemWrite(c, 4, v)` (spec/20_memory.md R52). -/
def Memory.writeCell (order : ByteOrder) (m : Memory) (c : Nat) (v : Word) : Memory :=
  (((m.setByte (4 * c) (cellByte order v 0)).setByte (4 * c + 1) (cellByte order v 1)).setByte
    (4 * c + 2) (cellByte order v 2)).setByte (4 * c + 3) (cellByte order v 3)

/-- `MemRead(c, 4)` of the state. -/
def State.memRead (s : State) (c : Nat) : Word := s.mem.readCell s.cfg.byteOrder c

/-- `MemWrite(c, 4, v)` of the state. Every instruction checks the range first (spec/20_memory.md R52); a host's launch write does not
(log 20). -/
def State.memWrite (s : State) (c : Nat) (v : Word) : State := { s with mem := s.mem.writeCell s.cfg.byteOrder c v }

/-- The host's byte view of the block (spec/20_memory.md R53). -/
def State.byteView (s : State) (a : Nat) : Byte := s.mem.byteAt a

end Sys2Proof.Machine
end

