-- ==== Sys2Proof/Machine/Ops.lean ====
section
/-! DEFINITION. The named operations over the register file, the status and the stack (spec/10_state.md, spec/42_stack.md), the one
operation that takes a fault (spec/60_exceptions.md R251), the transfer of control (spec/46_control_transfer.md R210), the advance
of `pc` (spec/40_execution_cycle.md R113) and fetch (R112). -/

namespace Sys2Proof.Machine

/-- `x[i]` (spec/00_scope.md R11). -/
def State.reg (s : State) (i : Fin 17) : Slot := s.regs[i.val]

/-- `x[i] <- t` (spec/00_scope.md R11). No slot is hardwired or read-only (spec/10_state.md R23). -/
def State.setReg (s : State) (i : Fin 17) (t : Slot) : State := { s with regs := s.regs.set i.val t }

/-- `sp` (spec/10_state.md R24). -/
def State.sp (s : State) : Slot := s.reg s.cfg.idxSp

/-- `sp <- t`. -/
def State.setSp (s : State) (t : Slot) : State := s.setReg s.cfg.idxSp t

/-- `sb` (spec/10_state.md R25). -/
def State.sb (s : State) : Slot := s.reg s.cfg.idxSb

/-- `ip` as a slot (spec/10_state.md R26). -/
def State.ip (s : State) : Slot := s.reg s.cfg.idxIp

/-- `pc`: the integer held in `ip` (spec/00_scope.md R11). `ip` always holds `Int` (spec/10_state.md R26); the value for `Addr`
serves only states that no run reaches (DESIGN CHOICE, log 9). -/
def State.pc (s : State) : Word :=
  match s.ip with
  | .int v => v
  | .addr _ => 0

/-- `pc <- t`, that is `x[IDX_IP] <- Int(t)` (spec/00_scope.md R11). -/
def State.setPc (s : State) (t : Word) : State := s.setReg s.cfg.idxIp (.int t)

/-- `FLAGS <- f` (spec/10_state.md R29). -/
def State.setFlags (s : State) (f : BitVec 2) : State := { s with flags := f }

/-- `REM <- v` (spec/10_state.md R31). -/
def State.setRem (s : State) (v : Word) : State := { s with rem := v }

/-- `Out <- Out ++ [v]` (spec/00_scope.md R11). -/
def State.emit (s : State) (v : Word) : State := { s with out := s.out ++ [v] }

/-- `status <- t` (spec/10_state.md R42). -/
def State.setStatus (s : State) (t : Status) : State := { s with status := t }

/-- TAKING A FAULT (spec/60_exceptions.md R251): no write of the cycle takes effect, so this is applied to the state BEFORE the
cycle; the status records the fault and the index in `pc`; nothing else changes: no handler, no vector, no push, no mode. -/
def State.takeFault (s : State) (f : Fault) : State := s.setStatus (.faulted f s.pc)

/-- The result of a body: its state, or the fault it raised, taken on the state before it (spec/00_scope.md R11, `raise`;
spec/60_exceptions.md R251). -/
def complete (s : State) : Except Fault State → Host.Outcome State Fault Refusal
  | .ok t => .next t
  | .error f => .next (s.takeFault f)

/-- `pc <- wrap32(pc + 1)` (spec/40_execution_cycle.md R113; spec/10_state.md R27). -/
def State.advance (s : State) : State := s.setPc (wrap32 (s.pc.toInt + 1))

/-- The index held in `ip`. An address there raises `TagFault`, in states that no run reaches (log 9). -/
def readIp (s : State) : Except Fault Word :=
  match s.ip with
  | .int v => .ok v
  | .addr _ => .error (.tagFault s.cfg.idxIp)

/-- `push_word(v)` (spec/42_stack.md R140). -/
def pushWord (v : Word) (s : State) : Except Fault State :=
  match s.sp with
  | .int _ => .error (.tagFault s.cfg.idxSp)
  | .addr a =>
    if a ≤ s.cfg.stackLimit then .error (.stackOverflow a)
    else .ok ((s.setSp (.addr (a - 1))).memWrite (a - 1) v)

/-- `pop_read()` (spec/42_stack.md R141). -/
def popRead (s : State) : Except Fault Word :=
  match s.sp with
  | .int _ => .error (.tagFault s.cfg.idxSp)
  | .addr a => if s.cfg.memCells ≤ a then .error (.stackUnderflow a) else .ok (s.memRead a)

/-- `pop_advance()` (spec/42_stack.md R141). -/
def popAdvance (s : State) : Except Fault State :=
  match s.sp with
  | .int _ => .error (.tagFault s.cfg.idxSp)
  | .addr a => .ok (s.setSp (.addr (a + 1)))

/-- The packed record at index `i` of the instruction store, and the fetch's range check (spec/40_execution_cycle.md R112). -/
def fetchRecord (s : State) : Except Fault PackedRecord := do
  let i ← readIp s
  if i.toInt < 0 then .error (.fetchRange i)
  else
    match s.program.code[i.toNat]? with
    | none => .error (.fetchRange i)
    | some w => .ok w

/-- Fetch and decode. A word that is `Invalid` raises `IllegalOpcode` with its opcode value (spec/30_encoding.md R87, R90;
spec/60_exceptions.md R252; log 17). -/
def fetch (s : State) : Except Fault Instr := do
  let w ← fetchRecord s
  match decode w with
  | .ok i => .ok i
  | .error _ => .error (.illegalOpcode (opcodeField w))

end Sys2Proof.Machine
end

