-- ==== Sys2Proof/Machine/Operands.lean ====
section
/-! DEFINITION. Operand access: the two primitives `rd` and `wr` through which every instruction touches its operands
(spec/00_scope.md R12), the body shapes built on them, and the shared transfer (spec/46_control_transfer.md R210). -/

namespace Sys2Proof.Machine

/-- `rd(ref)` for operand position `pos` (spec/00_scope.md R12): absent, then range, then tag. -/
def rd (pos : Fin 2) (r : Ref) (s : State) : Except Fault Word :=
  match r with
  | .absent => .error (.malformedOperand pos)
  | .registerSlot i =>
    if h : i < 17 then
      match s.reg ⟨i, h⟩ with
      | .int v => .ok v
      | .addr _ => .error (.tagFault ⟨i, h⟩)
    else .error (.operandRange pos i)
  | .memoryCell c => if c < s.cfg.memCells then .ok (s.memRead c) else .error (.operandRange pos c)

/-- The write that `wr` makes once its checks have passed: a slot takes `Int(v)`, a cell takes `v` (spec/00_scope.md R12). -/
def State.assign (s : State) (r : Ref) (v : Word) : State :=
  match r with
  | .absent => s
  | .registerSlot i => if h : i < 17 then s.setReg ⟨i, h⟩ (.int v) else s
  | .memoryCell c => s.memWrite c v

/-- The fault `wr` raises on a reference, if any: absent, then range; a write needs no tag (spec/00_scope.md R12). -/
def wrFault (pos : Fin 2) (r : Ref) (s : State) : Option Fault :=
  match r with
  | .absent => some (.malformedOperand pos)
  | .registerSlot i => if i < 17 then none else some (.operandRange pos i)
  | .memoryCell c => if c < s.cfg.memCells then none else some (.operandRange pos c)

/-- `wr(ref, v)` for operand position `pos` (spec/00_scope.md R12). -/
def wr (pos : Fin 2) (r : Ref) (v : Word) (s : State) : Except Fault State :=
  match wrFault pos r s with
  | some f => .error f
  | none => .ok (s.assign r v)

/-- `a = rd(op0); wr(op0, f a)`. -/
def unaryBody (f : Word → Word) (op0 : Ref) (s : State) : Except Fault State := do
  let a ← rd 0 op0 s
  wr 0 op0 (f a) s

/-- `a = rd(op0); b = rd(op1); wr(op0, f a b)`, where `f` may raise (spec/40_execution_cycle.md R117: both operands are read
before the write). -/
def binaryBody (f : Word → Word → Except Fault Word) (op0 op1 : Ref) (s : State) : Except Fault State := do
  let a ← rd 0 op0 s
  let b ← rd 1 op1 s
  let r ← f a b
  wr 0 op0 r s

/-- `v = pop_read(); wr(op0, v); pop_advance()` (spec/42_stack.md R143). -/
def popBody (op0 : Ref) (s : State) : Except Fault State := do
  let v ← popRead s
  let t ← wr 0 op0 v s
  popAdvance t

/-- `transfer(ref)`: `pc <- wrap32(rd(ref) - 1)` (spec/46_control_transfer.md R210). -/
def transfer (op0 : Ref) (s : State) : Except Fault State := do
  let t ← rd 0 op0 s
  .ok (s.setPc (wrap32 (t.toInt - 1)))

/-- `if cond then transfer(op0)`; when the jump does not fire its operand is not read (spec/46_control_transfer.md R213). -/
def jumpBody (fires : Bool) (op0 : Ref) (s : State) : Except Fault State :=
  if fires then transfer op0 s else .ok s

end Sys2Proof.Machine
end

