-- ==== Sys2Proof/Machine/Arithmetic.lean ====
section
/-! DEFINITION. `inc`, `dec`, `add`, `sub`, `mul`, `div`, `mod`, `rem` (spec/43_arithmetic.md). None writes `FLAGS` (R168). -/

namespace Sys2Proof.Machine

/-- `inc` (spec/43_arithmetic.md R160). -/
def execInc (op0 : Ref) (s : State) : Host.Outcome State Fault Refusal := complete s (unaryBody aluInc op0 s)

/-- `dec` (spec/43_arithmetic.md R161). -/
def execDec (op0 : Ref) (s : State) : Host.Outcome State Fault Refusal := complete s (unaryBody aluDec op0 s)

/-- `add` (spec/43_arithmetic.md R162). -/
def execAdd (op0 op1 : Ref) (s : State) : Host.Outcome State Fault Refusal :=
  complete s (binaryBody (fun a b => .ok (aluAdd a b)) op0 op1 s)

/-- `sub` (spec/43_arithmetic.md R163). -/
def execSub (op0 op1 : Ref) (s : State) : Host.Outcome State Fault Refusal :=
  complete s (binaryBody (fun a b => .ok (aluSub a b)) op0 op1 s)

/-- `mul` (spec/43_arithmetic.md R164). -/
def execMul (op0 op1 : Ref) (s : State) : Host.Outcome State Fault Refusal :=
  complete s (binaryBody (fun a b => .ok (aluMul a b)) op0 op1 s)

/-- `div`: `REM` is not written (spec/43_arithmetic.md R165). -/
def execDiv (op0 op1 : Ref) (s : State) : Host.Outcome State Fault Refusal := complete s (binaryBody aluDiv op0 op1 s)

/-- `mod`: `REM <- tmod(a, b)`; neither operand is written (spec/43_arithmetic.md R166). -/
def execMod (op0 op1 : Ref) (s : State) : Host.Outcome State Fault Refusal :=
  complete s do
    let a ← rd 0 op0 s
    let b ← rd 1 op1 s
    let r ← aluMod a b
    .ok (s.setRem r)

/-- `rem`: `wr(op0, REM)` (spec/43_arithmetic.md R167). -/
def execRem (op0 : Ref) (s : State) : Host.Outcome State Fault Refusal := complete s (wr 0 op0 s.rem s)

end Sys2Proof.Machine
end

