-- ==== Sys2Proof/Machine/Flags.lean ====
section
/-! DEFINITION. Every computation that writes or reads `FLAGS`: the compare's result (spec/45_compare.md R200) and the six jump
conditions (spec/46_control_transfer.md R213). -/

namespace Sys2Proof.Machine

/-- `FLAGS <- G ++ E` for `a` compared with `b`: bit 0 is `a = b`, bit 1 is `a > b`, signed (spec/45_compare.md R200). -/
def compareFlags (a b : Word) : BitVec 2 :=
  BitVec.ofBool (decide (b.toInt < a.toInt)) ++ BitVec.ofBool (decide (a.toInt = b.toInt))

/-- `E = FLAGS[0]` (spec/10_state.md R29). -/
def flagE (f : BitVec 2) : Bool := f.getLsbD 0

/-- `G = FLAGS[1]` (spec/10_state.md R29). -/
def flagG (f : BitVec 2) : Bool := f.getLsbD 1

/-- `je`: `E = 1`. -/
def condE (f : BitVec 2) : Bool := flagE f

/-- `jne`: `E = 0`. -/
def condNE (f : BitVec 2) : Bool := !flagE f

/-- `jg`: `G = 1`. -/
def condG (f : BitVec 2) : Bool := flagG f

/-- `jge`: `E = 1 or G = 1`. -/
def condGE (f : BitVec 2) : Bool := flagE f || flagG f

/-- `jl`: `E = 0 and G = 0`. -/
def condL (f : BitVec 2) : Bool := !flagE f && !flagG f

/-- `jle`: `G = 0`. -/
def condLE (f : BitVec 2) : Bool := !flagG f

end Sys2Proof.Machine
end

