-- ==== Sys2Proof/Machine/Compare.lean ====
section
/-! DEFINITION. `cmp` (spec/45_compare.md). -/

namespace Sys2Proof.Machine

/-- `cmp`: the only writer of `FLAGS` (spec/45_compare.md R200). -/
def execCmp (op0 op1 : Ref) (s : State) : Host.Outcome State Fault Refusal :=
  complete s do
    let a ← rd 0 op0 s
    let b ← rd 1 op1 s
    .ok (s.setFlags (compareFlags a b))

end Sys2Proof.Machine
end

