-- ==== Sys2Proof/Machine/ControlTransfer.lean ====
section
/-! DEFINITION. `jmp`, `call`, `ret`, the six conditional jumps (spec/46_control_transfer.md), and the sentinel record that ends a
run (spec/40_execution_cycle.md R115). -/

namespace Sys2Proof.Machine

/-- `jmp` (spec/46_control_transfer.md R211). -/
def execJmp (op0 : Ref) (s : State) : Host.Outcome State Fault Refusal := complete s (transfer op0 s)

/-- `call`: push the index of the call itself, then transfer (spec/46_control_transfer.md R212). -/
def execCall (op0 : Ref) (s : State) : Host.Outcome State Fault Refusal :=
  complete s do
    let i ← readIp s
    let t ← pushWord i s
    transfer op0 t

/-- `ret`: `v = pop_read(); pc <- v; pop_advance()` (spec/46_control_transfer.md R220). -/
def execRet (s : State) : Host.Outcome State Fault Refusal :=
  complete s do
    let v ← popRead s
    popAdvance (s.setPc v)

/-- `je` (spec/46_control_transfer.md R214). -/
def execJe (op0 : Ref) (s : State) : Host.Outcome State Fault Refusal := complete s (jumpBody (condE s.flags) op0 s)

/-- `jne` (spec/46_control_transfer.md R215). -/
def execJne (op0 : Ref) (s : State) : Host.Outcome State Fault Refusal := complete s (jumpBody (condNE s.flags) op0 s)

/-- `jg` (spec/46_control_transfer.md R216). -/
def execJg (op0 : Ref) (s : State) : Host.Outcome State Fault Refusal := complete s (jumpBody (condG s.flags) op0 s)

/-- `jge` (spec/46_control_transfer.md R217). -/
def execJge (op0 : Ref) (s : State) : Host.Outcome State Fault Refusal := complete s (jumpBody (condGE s.flags) op0 s)

/-- `jl` (spec/46_control_transfer.md R218). -/
def execJl (op0 : Ref) (s : State) : Host.Outcome State Fault Refusal := complete s (jumpBody (condL s.flags) op0 s)

/-- `jle` (spec/46_control_transfer.md R219). -/
def execJle (op0 : Ref) (s : State) : Host.Outcome State Fault Refusal := complete s (jumpBody (condLE s.flags) op0 s)

/-- The sentinel found at the start of a cycle: `status <- Halted`, nothing else changes (spec/40_execution_cycle.md R113, R115;
spec/10_state.md R42). -/
def execSentinel (s : State) : Host.Outcome State Fault Refusal := complete s (.ok (s.setStatus .halted))

end Sys2Proof.Machine
end

