-- ==== Sys2Proof/Machine/LogicShift.lean ====
section
/-! DEFINITION. `not`, `xor`, `or`, `and`, `shl`, `shr` (spec/44_logic_shift.md). None writes `FLAGS` or `REM` (R186). -/

namespace Sys2Proof.Machine

/-- `not` (spec/44_logic_shift.md R180). -/
def execNot (op0 : Ref) (s : State) : Host.Outcome State Fault Refusal := complete s (unaryBody aluNot op0 s)

/-- `xor` (spec/44_logic_shift.md R181). -/
def execXor (op0 op1 : Ref) (s : State) : Host.Outcome State Fault Refusal :=
  complete s (binaryBody (fun a b => .ok (aluXor a b)) op0 op1 s)

/-- `or` (spec/44_logic_shift.md R182). -/
def execOr (op0 op1 : Ref) (s : State) : Host.Outcome State Fault Refusal :=
  complete s (binaryBody (fun a b => .ok (aluOr a b)) op0 op1 s)

/-- `and` (spec/44_logic_shift.md R183). -/
def execAnd (op0 op1 : Ref) (s : State) : Host.Outcome State Fault Refusal :=
  complete s (binaryBody (fun a b => .ok (aluAnd a b)) op0 op1 s)

/-- `shl` (spec/44_logic_shift.md R184). -/
def execShl (op0 op1 : Ref) (s : State) : Host.Outcome State Fault Refusal := complete s (binaryBody aluShl op0 op1 s)

/-- `shr` (spec/44_logic_shift.md R185). -/
def execShr (op0 op1 : Ref) (s : State) : Host.Outcome State Fault Refusal := complete s (binaryBody aluShr op0 op1 s)

end Sys2Proof.Machine
end

