-- ==== Sys2Proof/Machine/MiscMove.lean ====
section
/-! DEFINITION. `nop`, `int`, `mov` (spec/41_misc_move.md). -/

namespace Sys2Proof.Machine

/-- `nop`: no effect (spec/41_misc_move.md R130). -/
def execNop (s : State) : Host.Outcome State Fault Refusal := complete s (.ok s)

/-- `int`: reserved, currently a no-op; it raises nothing (spec/41_misc_move.md R131). -/
def execInt (s : State) : Host.Outcome State Fault Refusal := complete s (.ok s)

/-- `mov`: `b = rd(op1); wr(op0, b)` (spec/41_misc_move.md R132). -/
def execMov (op0 op1 : Ref) (s : State) : Host.Outcome State Fault Refusal :=
  complete s do
    let b ← rd 1 op1 s
    wr 0 op0 b s

end Sys2Proof.Machine
end

