-- ==== Sys2Proof/Machine/Output.lean ====
section
/-! DEFINITION. `prn` and the text form of the output (spec/47_output.md). -/

namespace Sys2Proof.Machine

/-- `prn`: `Out <- Out ++ [rd(op0)]` (spec/47_output.md R240). -/
def execPrn (op0 : Ref) (s : State) : Host.Outcome State Fault Refusal :=
  complete s do
    let v ← rd 0 op0 s
    .ok (s.emit v)

/-- The line of one element of `Out`: the signed decimal numeral, `-` for negative values, no padding, one line feed
(spec/47_output.md R241, D19). -/
def renderLine (v : Word) : List Char :=
  (if v.toInt < 0 then ['-'] else []) ++ Nat.toDigits 10 v.toInt.natAbs ++ ['\n']

/-- The text the host sees (spec/47_output.md R241). -/
def renderOut (s : State) : List Char := s.out.flatMap renderLine

end Sys2Proof.Machine
end

