-- ==== Sys2Proof/Machine/Stack.lean ====
section
/-! DEFINITION. `push`, `pop`, `pushf`, `popf` (spec/42_stack.md). -/

namespace Sys2Proof.Machine

/-- `push`: `v = rd(op0); push_word(v)` (spec/42_stack.md R142). -/
def execPush (op0 : Ref) (s : State) : Host.Outcome State Fault Refusal :=
  complete s do
    let v ← rd 0 op0 s
    pushWord v s

/-- `pop` (spec/42_stack.md R143). -/
def execPop (op0 : Ref) (s : State) : Host.Outcome State Fault Refusal := complete s (popBody op0 s)

/-- `pushf`: `push_word(zext_2(FLAGS))` (spec/42_stack.md R144). -/
def execPushf (s : State) : Host.Outcome State Fault Refusal := complete s (pushWord (zext s.flags) s)

/-- `popf`: identical to `pop`; `FLAGS` is not written (spec/42_stack.md R145). -/
def execPopf (op0 : Ref) (s : State) : Host.Outcome State Fault Refusal := complete s (popBody op0 s)

end Sys2Proof.Machine
end

