-- ==== Sys2Proof/Machine/Dispatch.lean ====
section
/-! DEFINITION. `execute(instr)`: dispatch to the body of each instruction (spec/40_execution_cycle.md R114). -/

namespace Sys2Proof.Machine

-- The body only: the advance of pc that follows a completed body is the cycle's (spec/40_execution_cycle.md R113).
def exec (i : Instr) (s : State) : Host.Outcome State Fault Refusal :=
  match i with
  | .nop => Sys2Proof.Machine.execNop s
  | .int => Sys2Proof.Machine.execInt s
  | .mov op0 op1 => Sys2Proof.Machine.execMov op0 op1 s
  | .push op0 => Sys2Proof.Machine.execPush op0 s
  | .pop op0 => Sys2Proof.Machine.execPop op0 s
  | .pushf => Sys2Proof.Machine.execPushf s
  | .popf op0 => Sys2Proof.Machine.execPopf op0 s
  | .inc op0 => Sys2Proof.Machine.execInc op0 s
  | .dec op0 => Sys2Proof.Machine.execDec op0 s
  | .add op0 op1 => Sys2Proof.Machine.execAdd op0 op1 s
  | .sub op0 op1 => Sys2Proof.Machine.execSub op0 op1 s
  | .mul op0 op1 => Sys2Proof.Machine.execMul op0 op1 s
  | .div op0 op1 => Sys2Proof.Machine.execDiv op0 op1 s
  | .mod op0 op1 => Sys2Proof.Machine.execMod op0 op1 s
  | .rem op0 => Sys2Proof.Machine.execRem op0 s
  | .not op0 => Sys2Proof.Machine.execNot op0 s
  | .xor op0 op1 => Sys2Proof.Machine.execXor op0 op1 s
  | .or op0 op1 => Sys2Proof.Machine.execOr op0 op1 s
  | .and op0 op1 => Sys2Proof.Machine.execAnd op0 op1 s
  | .shl op0 op1 => Sys2Proof.Machine.execShl op0 op1 s
  | .shr op0 op1 => Sys2Proof.Machine.execShr op0 op1 s
  | .cmp op0 op1 => Sys2Proof.Machine.execCmp op0 op1 s
  | .jmp op0 => Sys2Proof.Machine.execJmp op0 s
  | .call op0 => Sys2Proof.Machine.execCall op0 s
  | .ret => Sys2Proof.Machine.execRet s
  | .je op0 => Sys2Proof.Machine.execJe op0 s
  | .jne op0 => Sys2Proof.Machine.execJne op0 s
  | .jg op0 => Sys2Proof.Machine.execJg op0 s
  | .jge op0 => Sys2Proof.Machine.execJge op0 s
  | .jl op0 => Sys2Proof.Machine.execJl op0 s
  | .jle op0 => Sys2Proof.Machine.execJle op0 s
  | .prn op0 => Sys2Proof.Machine.execPrn op0 s
  | .sentinel => Sys2Proof.Machine.execSentinel s

end Sys2Proof.Machine
end

