-- ==== Sys2Proof/Machine/Cycle.lean ====
section
/-! DEFINITION. One cycle of the run loop (spec/40_execution_cycle.md R113) and the host's operations on a core that is not running:
loading a Program and launch cells, `run`, and the single `step` (spec/70_reset_and_hazards.md R282; spec/40_execution_cycle.md
R111, R116). -/

namespace Sys2Proof.Machine

/-- After the body: a core that is still Running advances `pc`; a body that faulted, or the sentinel, does not
(spec/40_execution_cycle.md R113). -/
def retire : Host.Outcome State Fault Refusal → Host.Outcome State Fault Refusal
  | .next t => if t.status = .running then .next t.advance else .next t
  | o => o

/-- One cycle: fetch, execute, advance; a fault at fetch is taken with no other change (spec/40_execution_cycle.md R113). -/
def cycle (s : State) : Host.Outcome State Fault Refusal :=
  match fetch s with
  | .error f => .next (s.takeFault f)
  | .ok i => retire (exec i s)

/-- A step of the core (spec/10_state.md R42): one cycle while Running; a Halted core takes no step (log 7); a Faulted core has
stopped with its fault, and no further step is taken (log 6). -/
def stepCore (s : State) : Host.Outcome State Fault Refusal :=
  match s.status with
  | .running => cycle s
  | .halted => .refused .notRunning
  | .faulted f _ => .fault f

/-- The host gives the core its Program (spec/70_reset_and_hazards.md R282 step 1). -/
def State.load (s : State) (p : Program) : State := { s with program := p }

/-- The host writes launch values into memory cells, in order (spec/70_reset_and_hazards.md R282 step 3). The spec defines `MemWrite`
only for `c < MEM_CELLS` (spec/20_memory.md R52) and does not say what a launch write outside the block does: DESIGN CHOICE, log 20,
it is made without a check and lists bytes that no instruction can reach. -/
def State.poke (s : State) (cells : List (Nat × Word)) : State := cells.foldl (fun t cv => t.memWrite cv.1 cv.2) s

/-- The start of `run`: `ip <- Int(START)`, `status <- Running`, nothing else (spec/40_execution_cycle.md R111). The loop is then
one `step` per cycle. -/
def State.beginRun (s : State) : State := (s.setPc s.program.start).setStatus .running

/-- The launch of one run, in the order of spec/70_reset_and_hazards.md R282: create, load, poke, run. -/
def State.launch (cfg : Config) (p : Program) (cells : List (Nat × Word)) : State :=
  (((State.create cfg).load p).poke cells).beginRun

/-- The host's single `step`: `execute(PROG[pc])` without the sentinel test and without the increment; on a sentinel record it
raises `IllegalOpcode(-1)` (spec/40_execution_cycle.md R116; log 16). -/
def hostStep (s : State) : Host.Outcome State Fault Refusal :=
  match fetch s with
  | .error f => .next (s.takeFault f)
  | .ok .sentinel => .next (s.takeFault (.illegalOpcode sentinelOpcode))
  | .ok i => exec i s

/-- The code list with `w` at index `n`, lengthened with sentinel records if it is too short. -/
def placeRecord (w : PackedRecord) : Nat → List PackedRecord → List PackedRecord
  | 0, [] => [w]
  | 0, _ :: t => w :: t
  | n + 1, [] => encode .sentinel :: placeRecord w n []
  | n + 1, x :: t => x :: placeRecord w n t

/-- A state about to fetch `w`: the core Running, and `w` in the instruction store where `ip` points; an `ip` that points at no
index of a store is set to 0 first. -/
def State.withRecord (s : State) (w : PackedRecord) : State :=
  let t := if 0 ≤ s.pc.toInt then s.setPc s.pc else s.setPc 0
  { t with program := { t.program with code := placeRecord w t.pc.toNat t.program.code }, status := .running }

end Sys2Proof.Machine
end

