-- ==== Sys2Proof/Machine/Step.lean ====
section
/-! DEFINITION. The step of the machine, and the placing of an instruction where the next step fetches it. -/

namespace Sys2Proof.Machine

/-- One step of the core (spec/40_execution_cycle.md R113; spec/10_state.md R42). -/
def step (s : State) : Host.Outcome State Fault Refusal := stepCore s

/-- `s` with the record given as a number of `nbits` bits stored where the next step fetches, and the core Running: a Program is
loaded from outside the machine and `run` starts it (spec/70_reset_and_hazards.md R282; log 8). -/
def State.withFetchWord (s : State) (nbits w : Nat) : State := s.withRecord (BitVec.ofNat 96 (w % 2 ^ nbits))

end Sys2Proof.Machine
end

