-- ==== Sys2Proof/Safety.lean ====
section
/-! DEFINITION. What counts as a well-formed state, a well-formed Program and a safe run, in the terms the statements use, and the
spec's own tables of what an instruction may write (spec/10_state.md R28, spec/20_memory.md R55) and which faults it may raise
(spec/60_exceptions.md R253). -/

namespace Sys2Proof.Machine

/-- What a slot may hold (spec/10_state.md R21, R24 to R26; spec/20_memory.md R51; spec/42_stack.md R147): any integer; an address
only in `sp`, within `STACK_LIMIT .. MEM_CELLS`, and in `sb`, equal to `MEM_CELLS`. So `ip` and the general slots hold `Int`. -/
def slotOk (c : Config) (i : Fin 17) : Slot → Bool
  | .int _ => true
  | .addr a =>
    (i == c.idxSp && decide (c.stackLimit ≤ a) && decide (a ≤ c.memCells)) || (i == c.idxSb && a == c.memCells)

/-- Every listed byte lies in the block (spec/20_memory.md R50). -/
abbrev Memory.inBlock (c : Config) (m : Memory) : Prop := ∀ b ∈ m, b.1 < c.memBytes

/-- The invariant of every reachable state: parameters as spec/00_scope.md R6 allows them, slots as `slotOk` says, `FLAGS` not 3
(spec/10_state.md R30), memory in canonical form and inside the block. -/
abbrev State.wf (s : State) : Prop :=
  s.cfg.wf ∧ (∀ i, slotOk s.cfg i (s.reg i) = true) ∧ s.flags ≠ 3 ∧ s.mem.wf ∧ s.mem.inBlock s.cfg

/-- A record of the store is the sentinel or an instruction whose used operands are valid (spec/30_encoding.md R91 items 3, 4). -/
def recordOk (c : Config) (w : PackedRecord) : Bool :=
  match decode w with
  | .ok i => i.valid c.memCells
  | .error _ => false

/-- The record ends a run (spec/30_encoding.md R83). -/
def isSentinelRecord (w : PackedRecord) : Bool := opcodeField w == sentinelOpcode

/-- A well-formed Program (spec/30_encoding.md R91). -/
abbrev programWf (c : Config) (p : Program) : Prop :=
  1 ≤ p.code.length ∧ p.code.length ≤ 2 ^ 31 - 1 ∧
  (∃ w, p.code.getLast? = some w ∧ isSentinelRecord w = true) ∧
  (∀ w ∈ p.code, recordOk c w = true) ∧
  0 ≤ p.start.toInt ∧ p.start.toInt < p.code.length

/-- A Faulted status. -/
def Status.isFaulted : Status → Bool
  | .faulted _ _ => true
  | _ => false

/-- The depth of the stack, `MEM_CELLS - a` for `sp = Addr(a)` (spec/42_stack.md R147). -/
def State.depth (s : State) : Option Nat :=
  match s.sp with
  | .int _ => none
  | .addr a => some (s.cfg.memCells - a)

/-- A run from `s` never faults: no number of steps reaches a Faulted state (spec/60_exceptions.md R251: a claim about a program
takes "no fault" as a premise or proves it). -/
def NeverFaults (s : State) : Prop :=
  ∀ k t, Host.Core.run Sys2Proof.core k s = .next t → t.status.isFaulted = false

/-- A run from `s` halts at a sentinel in the state `t` (spec/40_execution_cycle.md R115). -/
def HaltsIn (s t : State) : Prop :=
  ∃ k, Host.Core.run Sys2Proof.core k s = .next t ∧ t.status = .halted

/-- The operand an instruction writes through `wr`, if any (the write roles of spec/30_encoding.md R84). -/
def destOperand : Instr → Option Ref
  | .mov a _ | .pop a | .popf a | .inc a | .dec a | .add a _ | .sub a _ | .mul a _ | .div a _ => some a
  | .rem a | .not a | .xor a _ | .or a _ | .and a _ | .shl a _ | .shr a _ => some a
  | .nop | .int | .push _ | .pushf | .mod _ _ | .cmp _ _ | .jmp _ | .call _ | .ret => none
  | .je _ | .jne _ | .jg _ | .jge _ | .jl _ | .jle _ | .prn _ | .sentinel => none

/-- The instructions that push one word (spec/42_stack.md R147). -/
def pushes : Instr → Bool
  | .push _ | .pushf | .call _ => true
  | _ => false

/-- The instructions that pop one word (spec/42_stack.md R147). -/
def pops : Instr → Bool
  | .pop _ | .popf _ | .ret => true
  | _ => false

/-- The instructions whose body writes `ip` implicitly (spec/10_state.md R28). -/
def writesIp : Instr → Bool
  | .jmp _ | .call _ | .ret | .je _ | .jne _ | .jg _ | .jge _ | .jl _ | .jle _ => true
  | _ => false

/-- The slots an instruction may write: its destination operand, `sp` for the stack instructions, `ip` for the control transfers
(spec/10_state.md R28). -/
def mayWriteSlot (c : Config) (i : Instr) (j : Fin 17) : Bool :=
  destOperand i == some (.registerSlot j.val) || ((pushes i || pops i) && j == c.idxSp) || (writesIp i && j == c.idxIp)

/-- The cell an instruction stores to (the write column of spec/20_memory.md R55): a memory destination, or the cell below the top
of the stack. -/
def storedCell (i : Instr) (s : State) : Option Nat :=
  match destOperand i with
  | some (.memoryCell c) => some c
  | _ =>
    if pushes i then
      match s.sp with
      | .addr a => some (a - 1)
      | .int _ => none
    else none

/-- The codes of the faults an instruction may raise (spec/60_exceptions.md R253): 3 `MalformedOperand`, 4 `OperandRange`,
5 `TagFault`, 6 `DivideByZero`, 7 `ShiftRange`, 8 `StackOverflow`, 9 `StackUnderflow`. -/
def raisableCodes : Instr → List Nat
  | .nop | .int | .sentinel => []
  | .mov _ _ | .inc _ | .dec _ | .add _ _ | .sub _ _ | .mul _ _ | .not _ | .xor _ _ | .or _ _ | .and _ _ => [3, 4, 5]
  | .cmp _ _ | .prn _ | .jmp _ | .je _ | .jne _ | .jg _ | .jge _ | .jl _ | .jle _ => [3, 4, 5]
  | .rem _ => [3, 4]
  | .div _ _ | .mod _ _ => [3, 4, 5, 6]
  | .shl _ _ | .shr _ _ => [3, 4, 5, 7]
  | .push _ | .call _ => [3, 4, 5, 8]
  | .pushf => [5, 8]
  | .pop _ | .popf _ => [3, 4, 5, 9]
  | .ret => [5, 9]

/-- The same core seen through two byte orders: the states agree in everything but `BYTE_ORDER` and the bytes, and every cell of
the block holds the same word (spec/20_memory.md R53). -/
def SameCells (s t : State) : Prop :=
  t = { s with cfg := { s.cfg with byteOrder := t.cfg.byteOrder }, mem := t.mem } ∧
  ∀ c, c < s.cfg.memCells → t.memRead c = s.memRead c

end Sys2Proof.Machine
end

