-- ==== Sys2Proof/Certificates/Slice0/Obligations.lean ====
section
/-! DEFINITION. The statements for the provers, in the order of the spec's files. `exec` is the body of an instruction
(spec/40_execution_cycle.md R114); the advance of `pc` that follows is the cycle's and is stated with `step`. A fault is TAKEN: the
next state is `s.takeFault f` (spec/60_exceptions.md R251). Where a clause rests on a decision of spec/92_eei_decisions.md or on a
choice of the model, the docstring names it. -/

open Sys2Proof Sys2Proof.Machine

/-! ## Encoding (spec/30_encoding.md) -/

/-- Nine of the packed words of spec/95_test_vectors.md 2.8 and part 3, written out from the layout of R86 (the layout and the numbers are the
spec's decisions D1, D3): each decodes to the instruction listed there, or is refused where it is listed as `Invalid`; the
word of `jle` is that of program P1. -/
def Obligations.DecodesWordsWrittenOutFromTheLayout : Prop :=
  decode 0x000000094000000040000001 = .ok (.add (.registerSlot 0) (.registerSlot 1)) ∧
  decode 0x0000001F8000006400000000 = .ok (.prn (.memoryCell 100)) ∧
  decode 0x000000024000000880000001 = .ok (.mov (.registerSlot 8) (.memoryCell 1)) ∧
  decode 0x000000180000000000000000 = .ok .ret ∧
  decode 0x0000001E8000000300000000 = .ok (.jle (.memoryCell 3)) ∧
  decode 0xFFFFFFFF1234567800000000 = .ok .sentinel ∧
  decode 0x000000200000000000000000 = .error (.unknownOpcode 32) ∧
  decode 0x00000002C000000040000000 = .error (.reservedKind 0) ∧
  decode 0x000000000000000100000000 = .error (.absentWithIndex 0)

/-- Decode after encode is the identity on every instruction that a record can hold, with every operand at every value
(spec/30_encoding.md sections 1 to 3; the layout is the decision D3). -/
def Obligations.DecodeOfEncodeIsTheInstruction : Prop :=
  ∀ i : Instr, i.wf = true → decode (encode i) = .ok i

/-- The other direction: an instruction read from a word can be held by a record, its number is the word's opcode field, and each
operand it uses is the word's reference field. -/
def Obligations.DecodedInstructionIsTheWordsFields : Prop :=
  ∀ (w : PackedRecord) (i : Instr), decode w = .ok i →
    i.wf = true ∧ opcodeField w = i.opcode ∧
    (∀ a, i.operands[0]? = some a → ref0Field w = encodeRef a) ∧
    (∀ b, i.operands[1]? = some b → ref1Field w = encodeRef b)

/-- A word is refused exactly when it is no sentinel and a reference field is bad (kind 11, or kind 00 with an index) or the opcode
is outside 0..31 (spec/30_encoding.md section 3; decisions D3, D10). -/
def Obligations.DecodeRefusesExactlyTheInvalidWords : Prop :=
  ∀ w : PackedRecord,
    let bad := fun f : BitVec 32 => refKind f = 0b11 ∨ (refKind f = 0b00 ∧ refIndex f ≠ 0)
    (∃ e, decode w = .error e) ↔
      opcodeField w ≠ -1 ∧
      (bad (ref0Field w) ∨ bad (ref1Field w) ∨ (opcodeField w).toInt < 0 ∨ 31 < (opcodeField w).toInt)

/-- Operand positions beyond the arity are ignored: two words that both decode and agree in the opcode and in the reference fields
below the arity decode alike (spec/30_encoding.md section 1; decision D21). -/
def Obligations.SurplusOperandsAreIgnored : Prop :=
  ∀ (w w' : PackedRecord) (i j : Instr), decode w = .ok i → decode w' = .ok j →
    opcodeField w' = opcodeField w → (1 ≤ i.arity → ref0Field w' = ref0Field w) →
    (2 ≤ i.arity → ref1Field w' = ref1Field w) → j = i

/-! ## Operands and memory (spec/00_scope.md, spec/20_memory.md) -/

/-- `rd`: absent, then range, then tag (spec/00_scope.md section 6; decisions D7, D21, D24). -/
def Obligations.OperandReadFollowsTheReference : Prop :=
  ∀ (pos : Fin 2) (s : State),
    rd pos .absent s = .error (.malformedOperand pos) ∧
    (∀ i, 16 < i → rd pos (.registerSlot i) s = .error (.operandRange pos i)) ∧
    (∀ (i : Fin 17) (v : Word), s.reg i = .int v → rd pos (.registerSlot i) s = .ok v) ∧
    (∀ (i : Fin 17) (a : Nat), s.reg i = .addr a → rd pos (.registerSlot i) s = .error (.tagFault i)) ∧
    (∀ c, c < s.cfg.memCells → rd pos (.memoryCell c) s = .ok (s.memRead c)) ∧
    (∀ c, s.cfg.memCells ≤ c → rd pos (.memoryCell c) s = .error (.operandRange pos c))

/-- `wr`: absent, then range; no tag is needed; a slot takes `Int(v)` (spec/00_scope.md section 6; decisions D7, D21, D24). -/
def Obligations.OperandWriteFollowsTheReference : Prop :=
  ∀ (pos : Fin 2) (v : Word) (s : State),
    wr pos .absent v s = .error (.malformedOperand pos) ∧
    (∀ i, 16 < i → wr pos (.registerSlot i) v s = .error (.operandRange pos i)) ∧
    (∀ i : Fin 17, wr pos (.registerSlot i) v s = .ok (s.setReg i (.int v))) ∧
    (∀ c, c < s.cfg.memCells → wr pos (.memoryCell c) v s = .ok (s.memWrite c v)) ∧
    (∀ c, s.cfg.memCells ≤ c → wr pos (.memoryCell c) v s = .error (.operandRange pos c))

/-- A write through an operand is read back through the same operand, and changes no other slot, no byte outside the written cell
and no other piece of state (the frame of `assign`, in which the results below are written). -/
def Obligations.OperandWriteIsReadBackAndChangesNothingElse : Prop :=
  ∀ (pos pos' : Fin 2) (r : Ref) (v : Word) (s t : State), wr pos r v s = .ok t →
    t = s.assign r v ∧ rd pos' r t = .ok v ∧
    (∀ j : Fin 17, r ≠ .registerSlot j → t.reg j = s.reg j) ∧
    (∀ a, (∀ c, r = .memoryCell c → a < 4 * c ∨ 4 * c + 4 ≤ a) → t.byteView a = s.byteView a) ∧
    t.flags = s.flags ∧ t.rem = s.rem ∧ t.out = s.out ∧ t.status = s.status ∧ t.cfg = s.cfg ∧ t.program = s.program

/-- The byte view of a written cell, and `MemRead` after `MemWrite`: little-endian in the default order (decision D16), no byte
outside the cell changed. -/
def Obligations.CellsAreFourBytesOfTheBlock : Prop :=
  ∀ (s : State) (c : Nat) (v : Word),
    (s.memWrite c v).memRead c = v ∧
    (∀ d, d ≠ c → (s.memWrite c v).memRead d = s.memRead d) ∧
    (∀ a, a < 4 * c ∨ 4 * c + 4 ≤ a → (s.memWrite c v).byteView a = s.byteView a) ∧
    (s.cfg.byteOrder = .little →
      (s.memRead c).toNat = (s.byteView (4 * c)).toNat + 2 ^ 8 * (s.byteView (4 * c + 1)).toNat +
        2 ^ 16 * (s.byteView (4 * c + 2)).toNat + 2 ^ 24 * (s.byteView (4 * c + 3)).toNat)

/-- Byte order is not observable (spec/20_memory.md R53; the second order is the model's, log 5): two states with the same cells
seen through any two byte orders take the same steps and keep the same cells. -/
def Obligations.ByteOrderIsNotObservable : Prop :=
  ∀ s t : State, SameCells s t →
    (∀ s', step s = .next s' → ∃ t', step t = .next t' ∧ SameCells s' t') ∧
    (∀ f, step s = .fault f → step t = .fault f) ∧
    (∀ r, step s = .refused r → step t = .refused r)

/-- Stores are never seen by fetch: what is fetched depends on the Program and `ip` alone, and no step changes the Program. -/
def Obligations.FetchSeesOnlyTheProgramAndIp : Prop :=
  (∀ s t : State, t.program = s.program → t.cfg = s.cfg → t.ip = s.ip → fetch t = fetch s) ∧
  (∀ s t : State, step s = .next t → t.program = s.program)

/-! ## The cycle (spec/40_execution_cycle.md) -/

/-- A Running core whose `ip` indexes a record that decodes to `i` runs `i`: the step is `exec i`, and then `pc <- wrap32(pc + 1)`
if the core is still Running (no advance after a fault taken or a sentinel). -/
def Obligations.StepRunsTheDecodedInstruction : Prop :=
  ∀ (s : State) (v : Word) (w : PackedRecord) (i : Instr),
    s.status = .running → s.ip = .int v → 0 ≤ v.toInt → s.program.code[v.toNat]? = some w → decode w = .ok i →
    ∃ t, exec i s = .next t ∧
      (t.status = .running → step s = .next (t.setPc (wrap32 (t.pc.toInt + 1)))) ∧
      (t.status ≠ .running → step s = .next t)

/-- An index outside the Program faults with `FetchRange` and records the index, a record that is `Invalid` with `IllegalOpcode` and
records its opcode field (decisions D9, D10, D25). That a word `Invalid` only for a bad reference field records its opcode field too
is the model's reading of the spec (log 17). -/
def Obligations.FetchFaultsAreTaken : Prop :=
  ∀ (s : State) (v : Word), s.status = .running → s.ip = .int v →
    ((v.toInt < 0 ∨ (s.program.code.length : Int) ≤ v.toInt) → step s = .next (s.takeFault (.fetchRange v))) ∧
    (∀ w e, 0 ≤ v.toInt → s.program.code[v.toNat]? = some w → decode w = .error e →
      step s = .next (s.takeFault (.illegalOpcode (opcodeField w))))

/-- A core that is not Running takes no step (spec/10_state.md R42): a Halted core refuses it (the model's choice, log 7), a Faulted
core answers its fault (log 6). -/
def Obligations.NotRunningTakesNoStep : Prop :=
  ∀ s : State, (s.status = .halted → step s = .refused .notRunning) ∧
    (∀ f i, s.status = .faulted f i → step s = .fault f)

/-- Any record with opcode -1 is a sentinel, whatever its reference fields hold, and ends the run when `pc` reaches it: the status
becomes Halted (decision D28) and nothing else changes. A well-formed Program ends with one. That the sentinel has a meaning of its
own in `exec` is the model's way to the cycle's test (log 18). -/
def Obligations.SentinelRecordEndsTheRun : Prop :=
  (∀ w : PackedRecord, opcodeField w = -1 → decode w = .ok .sentinel) ∧
  (∀ s : State, exec .sentinel s = .next { s with status := .halted }) ∧
  (∀ (s : State) (v : Word) (w : PackedRecord), s.status = .running → s.ip = .int v → 0 ≤ v.toInt →
    s.program.code[v.toNat]? = some w → opcodeField w = -1 → step s = .next { s with status := .halted }) ∧
  (∀ (c : Config) (p : Program), programWf c p → ∃ w, p.code.getLast? = some w ∧ opcodeField w = -1)

/-- Writes to `ip` through an operand land one past the value written, for every instruction with a destination operand that
completes; the index it lands on is given for `mov`, `inc`, `dec`, `add`, `sub`, `mul`, `rem`, `not`, `xor`, `or`, `and`, `pop` and
`popf` (for `div`, `shl` and `shr` see `DivisionsAndShiftsIntoIpTransferControl`). `dec ip`, `jmp ip` and `call ip` run again; the
instructions that read `ip` read their own index and continue at the next. The cases are the spec's own inference
(spec/40_execution_cycle.md section 4, derived there from the cycle and from `ip` being the run loop's index); the values and the
stack writes are those of the instructions' own rules (files 41 to 47). -/
def Obligations.IpAsAnOperandTransfersControl : Prop :=
  ∀ (s : State) (i : Word), s.status = .running → s.ip = .int i → s.cfg.wf →
    let ip := Ref.registerSlot s.cfg.idxIp
    (∀ b v, fetch s = .ok (.mov ip b) → rd 1 b s = .ok v → step s = .next (s.setPc (wrap32 (v.toInt + 1)))) ∧
    (fetch s = .ok (.inc ip) → step s = .next (s.setPc (wrap32 (i.toInt + 2)))) ∧
    (fetch s = .ok (.dec ip) → step s = .next s) ∧
    (∀ b v, fetch s = .ok (.add ip b) → rd 1 b s = .ok v →
      step s = .next (s.setPc (wrap32 (i.toInt + v.toInt + 1)))) ∧
    (fetch s = .ok (.rem ip) → step s = .next (s.setPc (wrap32 (s.rem.toInt + 1)))) ∧
    (∀ a, fetch s = .ok (.pop ip) ∨ fetch s = .ok (.popf ip) → s.sp = .addr a → a < s.cfg.memCells →
      step s = .next ((s.setSp (.addr (a + 1))).setPc (wrap32 ((s.memRead a).toInt + 1)))) ∧
    (fetch s = .ok (.jmp ip) → step s = .next s) ∧
    (∀ a, fetch s = .ok (.call ip) → s.sp = .addr a → s.cfg.stackLimit < a →
      step s = .next ((s.setSp (.addr (a - 1))).memWrite (a - 1) i)) ∧
    (∀ a, fetch s = .ok (.mov a ip) → a.valid s.cfg.memCells = true →
      step s = .next ((s.assign a i).setPc (wrap32 (i.toInt + 1)))) ∧
    (∀ a, fetch s = .ok (.push ip) → s.sp = .addr a → s.cfg.stackLimit < a →
      step s = .next (((s.setSp (.addr (a - 1))).memWrite (a - 1) i).setPc (wrap32 (i.toInt + 1)))) ∧
    (fetch s = .ok (.prn ip) → step s = .next (({ s with out := s.out ++ [i] } : State).setPc (wrap32 (i.toInt + 1)))) ∧
    (∀ b v, fetch s = .ok (.cmp ip b) → rd 1 b s = .ok v →
      step s = .next ((s.setFlags (compareFlags i v)).setPc (wrap32 (i.toInt + 1)))) ∧
    (∀ b v, rd 1 b s = .ok v →
      (fetch s = .ok (.sub ip b) → step s = .next (s.setPc (wrap32 (i.toInt - v.toInt + 1)))) ∧
      (fetch s = .ok (.mul ip b) → step s = .next (s.setPc (wrap32 (i.toInt * v.toInt + 1)))) ∧
      (fetch s = .ok (.xor ip b) → step s = .next (s.setPc (wrap32 ((i ^^^ v).toInt + 1)))) ∧
      (fetch s = .ok (.or ip b) → step s = .next (s.setPc (wrap32 ((i ||| v).toInt + 1)))) ∧
      (fetch s = .ok (.and ip b) → step s = .next (s.setPc (wrap32 ((i &&& v).toInt + 1))))) ∧
    (fetch s = .ok (.not ip) → step s = .next (s.setPc (wrap32 (-i.toInt)))) ∧
    (∀ ins u, fetch s = .ok ins → destOperand ins = some ip → exec ins s = .next u → u.status = .running →
      ∃ v, u.ip = .int v ∧ step s = .next (u.setPc (wrap32 (v.toInt + 1))))

/-- `div`, `shl` and `shr` with `ip` as destination: the step lands one past the quotient or the shifted index, or takes the fault of
the divisor or the count (decisions D11 to D14; the landing is that of spec/40_execution_cycle.md R118). -/
def Obligations.DivisionsAndShiftsIntoIpTransferControl : Prop :=
  ∀ (s : State) (i v : Word) (b : Ref), s.status = .running → s.ip = .int i → rd 1 b s = .ok v →
    let ip := Ref.registerSlot s.cfg.idxIp
    (fetch s = .ok (.div ip b) →
      (v ≠ 0 → step s = .next (s.setPc (wrap32 (i.toInt.tdiv v.toInt + 1)))) ∧
      (v = 0 → step s = .next (s.takeFault .divideByZero))) ∧
    (fetch s = .ok (.shl ip b) → 0 ≤ v.toInt → v.toInt ≤ 31 →
      step s = .next (s.setPc (wrap32 (i.toInt * 2 ^ v.toInt.toNat + 1)))) ∧
    (fetch s = .ok (.shr ip b) → 0 ≤ v.toInt → v.toInt ≤ 31 →
      step s = .next (s.setPc (wrap32 (i.toInt / 2 ^ v.toInt.toNat + 1)))) ∧
    (fetch s = .ok (.shl ip b) ∨ fetch s = .ok (.shr ip b) → v.toInt < 0 ∨ 31 < v.toInt →
      step s = .next (s.takeFault (.shiftRange v)))

/-- A slot that holds an address cannot be read as an integer (decision D7): every instruction that reads it faults with `TagFault`,
be it the first operand read, the second one after a first that can be read, the target of a conditional jump that fires, or the
target of a `call` whose push succeeds. -/
def Obligations.AddressSlotsCannotBeReadAsIntegers : Prop :=
  ∀ (s : State) (j : Fin 17) (a : Nat), s.reg j = .addr a →
    let r := Ref.registerSlot j
    (∀ op : Ref,
      ∀ i ∈ [Instr.mov op r, .push r, .inc r, .dec r, .add r op, .sub r op, .mul r op, .div r op, .mod r op, .not r,
        .xor r op, .or r op, .and r op, .shl r op, .shr r op, .cmp r op, .jmp r, .prn r],
        exec i s = .next (s.takeFault (.tagFault j))) ∧
    (∀ (op : Ref) (v : Word), rd 0 op s = .ok v →
      ∀ i ∈ [Instr.add op r, .sub op r, .mul op r, .div op r, .mod op r, .xor op r, .or op r, .and op r, .shl op r, .shr op r,
        .cmp op r],
        exec i s = .next (s.takeFault (.tagFault j))) ∧
    (s.flags.getLsbD 0 = true → exec (.je r) s = .next (s.takeFault (.tagFault j))) ∧
    (s.flags.getLsbD 0 = false → exec (.jne r) s = .next (s.takeFault (.tagFault j))) ∧
    (s.flags.getLsbD 1 = true → exec (.jg r) s = .next (s.takeFault (.tagFault j))) ∧
    (s.flags.getLsbD 0 = true ∨ s.flags.getLsbD 1 = true → exec (.jge r) s = .next (s.takeFault (.tagFault j))) ∧
    (s.flags.getLsbD 0 = false ∧ s.flags.getLsbD 1 = false → exec (.jl r) s = .next (s.takeFault (.tagFault j))) ∧
    (s.flags.getLsbD 1 = false → exec (.jle r) s = .next (s.takeFault (.tagFault j))) ∧
    (∀ (v : Word) (b : Nat), s.ip = .int v → s.sp = .addr b → s.cfg.stackLimit < b →
      exec (.call r) s = .next (s.takeFault (.tagFault j)))

/-! ## The instructions (spec/41_misc_move.md to spec/47_output.md) -/

/-- `nop` and `int`: no effect, no operand used, no fault; the step only advances `pc`. -/
def Obligations.NopAndIntHaveNoEffect : Prop :=
  (∀ r0 r1, selectInstr 0 r0 r1 = some .nop ∧ selectInstr 1 r0 r1 = some .int) ∧
  ∀ s : State, exec .nop s = .next s ∧ exec .int s = .next s ∧
    (s.status = .running → fetch s = .ok .nop ∨ fetch s = .ok .int → step s = .next (s.setPc (wrap32 (s.pc.toInt + 1))))

/-- `mov`: the destination takes the source's integer; the source's faults come first, then the destination's. -/
def Obligations.MovCopiesTheSource : Prop :=
  ∀ (s : State) (op0 op1 : Ref),
    (Instr.mov op0 op1).opcode = 2 ∧
    (∀ b, rd 1 op1 s = .ok b → op0.valid s.cfg.memCells = true → exec (.mov op0 op1) s = .next (s.assign op0 b)) ∧
    (∀ f, rd 1 op1 s = .error f → exec (.mov op0 op1) s = .next (s.takeFault f)) ∧
    (∀ b f, rd 1 op1 s = .ok b → wr 0 op0 b s = .error f → exec (.mov op0 op1) s = .next (s.takeFault f))

/-- `push`: the operand's word goes to the cell below the top of the stack and `sp` to that cell; the operand's faults come before
the stack's (decisions D7, D17). -/
def Obligations.PushStoresBelowTheTop : Prop :=
  ∀ (s : State) (op0 : Ref),
    (∀ v a, rd 0 op0 s = .ok v → s.sp = .addr a → s.cfg.stackLimit < a →
      exec (.push op0) s = .next ((s.setSp (.addr (a - 1))).memWrite (a - 1) v)) ∧
    (∀ f, rd 0 op0 s = .error f → exec (.push op0) s = .next (s.takeFault f)) ∧
    (∀ v w, rd 0 op0 s = .ok v → s.sp = .int w → exec (.push op0) s = .next (s.takeFault (.tagFault s.cfg.idxSp))) ∧
    (∀ v a, rd 0 op0 s = .ok v → s.sp = .addr a → a ≤ s.cfg.stackLimit →
      exec (.push op0) s = .next (s.takeFault (.stackOverflow a)))

/-- `pop` and `popf` alike: the destination takes the word on top, then `sp` rises; `FLAGS` is not written; `pop sp` faults; the
stack's faults come before the destination's (decisions D7, D18). -/
def Obligations.PopAndPopfTakeTheTop : Prop :=
  ∀ (s : State) (op0 : Ref), ∀ i ∈ [Instr.pop op0, .popf op0],
    (∀ a, s.sp = .addr a → a < s.cfg.memCells → op0.valid s.cfg.memCells = true → op0 ≠ .registerSlot s.cfg.idxSp →
      exec i s = .next ((s.assign op0 (s.memRead a)).setSp (.addr (a + 1)))) ∧
    (∀ a, s.sp = .addr a → a < s.cfg.memCells → op0 = .registerSlot s.cfg.idxSp →
      exec i s = .next (s.takeFault (.tagFault s.cfg.idxSp))) ∧
    (∀ w, s.sp = .int w → exec i s = .next (s.takeFault (.tagFault s.cfg.idxSp))) ∧
    (∀ a, s.sp = .addr a → s.cfg.memCells ≤ a → exec i s = .next (s.takeFault (.stackUnderflow a))) ∧
    (∀ a v f, s.sp = .addr a → a < s.cfg.memCells → wr 0 op0 v s = .error f → exec i s = .next (s.takeFault f))

/-- `pushf`: the word pushed is the number in `FLAGS`; `FLAGS` is unchanged (decisions D7, D17, D26). -/
def Obligations.PushfStoresTheFlags : Prop :=
  ∀ s : State,
    (∀ a, s.sp = .addr a → s.cfg.stackLimit < a →
      ∃ v : Word, v.toNat = s.flags.toNat ∧
        exec .pushf s = .next ((s.setSp (.addr (a - 1))).memWrite (a - 1) v)) ∧
    (∀ w, s.sp = .int w → exec .pushf s = .next (s.takeFault (.tagFault s.cfg.idxSp))) ∧
    (∀ a, s.sp = .addr a → a ≤ s.cfg.stackLimit → exec .pushf s = .next (s.takeFault (.stackOverflow a)))

/-- A push followed by a pop to another destination gives the word back and restores `sp`; the one other cell that may change is the
one pushed to. -/
def Obligations.PushThenPopGivesTheWordBack : Prop :=
  ∀ (s : State) (x y : Ref) (v : Word) (a : Nat),
    s.sp = .addr a → s.cfg.stackLimit < a → a ≤ s.cfg.memCells → rd 0 x s = .ok v →
    y.valid s.cfg.memCells = true → y ≠ .registerSlot s.cfg.idxSp →
    ∃ t u, exec (.push x) s = .next t ∧ exec (.pop y) t = .next u ∧
      rd 0 y u = .ok v ∧ u.sp = .addr a ∧ u.memRead (a - 1) = v ∧
      (∀ j : Fin 17, y ≠ .registerSlot j → u.reg j = s.reg j) ∧
      (∀ c, c ≠ a - 1 → y ≠ .memoryCell c → u.memRead c = s.memRead c) ∧
      u.flags = s.flags ∧ u.rem = s.rem ∧ u.out = s.out ∧ u.status = s.status ∧ u.cfg = s.cfg ∧ u.program = s.program

/-- Pushing a list of words that fits in the room left on the stack succeeds, writes exactly the cells below the old top, the first
word highest, and changes no cell outside them; a push with no room left overflows (decision D17 for the last cell). -/
def Obligations.PushesNeverLeaveTheStackRegion : Prop :=
  ∀ (vs : List Word) (s : State) (a : Nat),
    s.sp = .addr a → s.cfg.stackLimit + vs.length ≤ a →
    ∃ t, vs.foldlM (fun u v => pushWord v u) s = .ok t ∧
      t.sp = .addr (a - vs.length) ∧
      (∀ c, c < a - vs.length ∨ a ≤ c → t.memRead c = s.memRead c) ∧
      (∀ k v, vs[k]? = some v → t.memRead (a - 1 - k) = v) ∧
      (∀ j, j ≠ s.cfg.idxSp → t.reg j = s.reg j) ∧
      (s.cfg.stackLimit + vs.length = a → ∀ v, pushWord v t = .error (.stackOverflow s.cfg.stackLimit))

/-- A completed push raises the depth of the stack by one, a completed pop lowers it by one, every other completed instruction that
does not name `sp` as its destination keeps it. -/
def Obligations.StackDepthMovesByOne : Prop :=
  ∀ (i : Instr) (s t : State) (d : Nat),
    s.wf → s.status = .running → s.depth = some d → exec i s = .next t → t.status.isFaulted = false →
    destOperand i ≠ some (.registerSlot s.cfg.idxSp) →
    (pushes i = true → t.depth = some (d + 1) ∧ d + 1 ≤ s.cfg.stackCells) ∧
    (pops i = true → t.depth = some (d - 1) ∧ 1 ≤ d) ∧
    (pushes i = false → pops i = false → t.depth = some d)

/-- `inc` and `dec`: the destination takes the wrapped sum or difference with 1. -/
def Obligations.IncAndDecWrap : Prop :=
  ∀ (s : State) (op0 : Ref),
    (Instr.inc op0).opcode = 7 ∧ (Instr.dec op0).opcode = 8 ∧
    (∀ a, rd 0 op0 s = .ok a →
      exec (.inc op0) s = .next (s.assign op0 (wrap32 (a.toInt + 1))) ∧
      exec (.dec op0) s = .next (s.assign op0 (wrap32 (a.toInt - 1)))) ∧
    (∀ f, rd 0 op0 s = .error f →
      exec (.inc op0) s = .next (s.takeFault f) ∧ exec (.dec op0) s = .next (s.takeFault f))

/-- `add`, `sub`, `mul`: the destination takes the exact result modulo 2^32; operand 0's faults come before operand 1's. -/
def Obligations.AddSubMulWrap : Prop :=
  ∀ (s : State) (op0 op1 : Ref),
    (Instr.add op0 op1).opcode = 9 ∧ (Instr.sub op0 op1).opcode = 10 ∧ (Instr.mul op0 op1).opcode = 11 ∧
    (∀ a b, rd 0 op0 s = .ok a → rd 1 op1 s = .ok b →
      exec (.add op0 op1) s = .next (s.assign op0 (wrap32 (a.toInt + b.toInt))) ∧
      exec (.sub op0 op1) s = .next (s.assign op0 (wrap32 (a.toInt - b.toInt))) ∧
      exec (.mul op0 op1) s = .next (s.assign op0 (wrap32 (a.toInt * b.toInt)))) ∧
    (∀ i ∈ [Instr.add op0 op1, .sub op0 op1, .mul op0 op1],
      (∀ f, rd 0 op0 s = .error f → exec i s = .next (s.takeFault f)) ∧
      (∀ a f, rd 0 op0 s = .ok a → rd 1 op1 s = .error f → exec i s = .next (s.takeFault f)))

/-- `div` and `mod` by a nonzero divisor: the quotient goes to operand 0, the remainder to `REM` and nowhere else; by zero both
fault with `DivideByZero` after the operands' own faults (decisions D11, D12, D13). -/
def Obligations.DivAndModTruncate : Prop :=
  ∀ (s : State) (op0 op1 : Ref),
    (∀ a b, rd 0 op0 s = .ok a → rd 1 op1 s = .ok b → b ≠ 0 →
      exec (.div op0 op1) s = .next (s.assign op0 (wrap32 (a.toInt.tdiv b.toInt))) ∧
      exec (.mod op0 op1) s = .next (s.setRem (wrap32 (a.toInt.tmod b.toInt)))) ∧
    (∀ i ∈ [Instr.div op0 op1, .mod op0 op1],
      (∀ a, rd 0 op0 s = .ok a → rd 1 op1 s = .ok 0 → exec i s = .next (s.takeFault .divideByZero)) ∧
      (∀ f, rd 0 op0 s = .error f → exec i s = .next (s.takeFault f)) ∧
      (∀ a f, rd 0 op0 s = .ok a → rd 1 op1 s = .error f → exec i s = .next (s.takeFault f)))

/-- The quotient and remainder of spec/00_scope.md section 6 (decision D13): they recompose the dividend, the remainder is smaller
than the divisor and is zero or has the dividend's sign, it always fits a word, and the quotient fits one except for
`-2^31 / -1`, which wraps to `-2^31` (decision D12). -/
def Obligations.TruncatingDivisionIsExact : Prop :=
  (∀ a b : Int, b ≠ 0 →
    b * tdiv a b + tmod a b = a ∧ (tmod a b).natAbs < b.natAbs ∧ (tmod a b = 0 ∨ (tmod a b).sign = a.sign)) ∧
  (∀ a b : Word, b ≠ 0 →
    (wrap32 (tmod a.toInt b.toInt)).toInt = tmod a.toInt b.toInt ∧
    (¬(a.toInt = -2 ^ 31 ∧ b.toInt = -1) → (wrap32 (tdiv a.toInt b.toInt)).toInt = tdiv a.toInt b.toInt) ∧
    (a.toInt = -2 ^ 31 → b.toInt = -1 → (wrap32 (tdiv a.toInt b.toInt)).toInt = -2 ^ 31))

/-- `rem`: the destination takes `REM`; `REM` is not changed; only the destination can fault (decisions D21, D24). -/
def Obligations.RemFetchesTheRemainder : Prop :=
  ∀ (s : State) (op0 : Ref),
    (op0.valid s.cfg.memCells = true → exec (.rem op0) s = .next (s.assign op0 s.rem)) ∧
    (∀ f, wr 0 op0 s.rem s = .error f → exec (.rem op0) s = .next (s.takeFault f))

/-- `not`, `xor`, `or`, `and`: the destination takes the word computed bit by bit; `not a` is also `-a - 1`. -/
def Obligations.LogicActsBitByBit : Prop :=
  ∀ (s : State) (op0 op1 : Ref),
    (Instr.not op0).opcode = 15 ∧ (Instr.xor op0 op1).opcode = 16 ∧ (Instr.or op0 op1).opcode = 17 ∧
    (Instr.and op0 op1).opcode = 18 ∧
    (∀ a, rd 0 op0 s = .ok a → exec (.not op0) s = .next (s.assign op0 (wrap32 (-a.toInt - 1)))) ∧
    (∀ a b, rd 0 op0 s = .ok a → rd 1 op1 s = .ok b →
      ∃ x o n : Word,
        (∀ k, k < 32 → x.getLsbD k = (a.getLsbD k ^^ b.getLsbD k) ∧ o.getLsbD k = (a.getLsbD k || b.getLsbD k) ∧
          n.getLsbD k = (a.getLsbD k && b.getLsbD k)) ∧
        exec (.xor op0 op1) s = .next (s.assign op0 x) ∧ exec (.or op0 op1) s = .next (s.assign op0 o) ∧
        exec (.and op0 op1) s = .next (s.assign op0 n)) ∧
    (∀ i ∈ [Instr.not op0, .xor op0 op1, .or op0 op1, .and op0 op1],
      ∀ f, rd 0 op0 s = .error f → exec i s = .next (s.takeFault f)) ∧
    (∀ i ∈ [Instr.xor op0 op1, .or op0 op1, .and op0 op1],
      ∀ a f, rd 0 op0 s = .ok a → rd 1 op1 s = .error f → exec i s = .next (s.takeFault f))

/-- `shl` and `shr`: for a signed count in 0..31 the destination takes `wrap32(a * 2^n)`, or the floor of `a / 2^n` exactly; a count
outside faults with `ShiftRange` (decision D14). -/
def Obligations.ShiftsScaleByPowersOfTwo : Prop :=
  ∀ (s : State) (op0 op1 : Ref),
    (∀ a n, rd 0 op0 s = .ok a → rd 1 op1 s = .ok n → 0 ≤ n.toInt → n.toInt ≤ 31 →
      exec (.shl op0 op1) s = .next (s.assign op0 (wrap32 (a.toInt * 2 ^ n.toInt.toNat))) ∧
      ∃ q : Word, q.toInt = a.toInt / 2 ^ n.toInt.toNat ∧ exec (.shr op0 op1) s = .next (s.assign op0 q)) ∧
    (∀ i ∈ [Instr.shl op0 op1, .shr op0 op1],
      (∀ a n, rd 0 op0 s = .ok a → rd 1 op1 s = .ok n → n.toInt < 0 ∨ 31 < n.toInt →
        exec i s = .next (s.takeFault (.shiftRange n))) ∧
      (∀ f, rd 0 op0 s = .error f → exec i s = .next (s.takeFault f)) ∧
      (∀ a f, rd 0 op0 s = .ok a → rd 1 op1 s = .error f → exec i s = .next (s.takeFault f)))

/-- `cmp`: bit 0 of `FLAGS` says equal, bit 1 says greater (signed); nothing else changes. -/
def Obligations.CmpSetsEqualAndGreater : Prop :=
  ∀ (s : State) (op0 op1 : Ref),
    (Instr.cmp op0 op1).opcode = 21 ∧
    (∀ a b, rd 0 op0 s = .ok a → rd 1 op1 s = .ok b →
      ∃ f : BitVec 2, f.getLsbD 0 = decide (a.toInt = b.toInt) ∧ f.getLsbD 1 = decide (b.toInt < a.toInt) ∧ f ≠ 3 ∧
        exec (.cmp op0 op1) s = .next { s with flags := f }) ∧
    (∀ f, rd 0 op0 s = .error f → exec (.cmp op0 op1) s = .next (s.takeFault f)) ∧
    (∀ a f, rd 0 op0 s = .ok a → rd 1 op1 s = .error f → exec (.cmp op0 op1) s = .next (s.takeFault f))

/-- `jmp`: `pc` takes the target minus one, so that the step lands on the target; nothing else changes; the operand's faults are its
only faults. -/
def Obligations.JmpStoresTheTargetMinusOne : Prop :=
  ∀ (s : State) (op0 : Ref),
    (Instr.jmp op0).opcode = 22 ∧
    (∀ t, rd 0 op0 s = .ok t → exec (.jmp op0) s = .next (s.setPc (wrap32 (t.toInt - 1)))) ∧
    (∀ t, s.status = .running → fetch s = .ok (.jmp op0) → rd 0 op0 s = .ok t → step s = .next (s.setPc t)) ∧
    (∀ f, rd 0 op0 s = .error f → exec (.jmp op0) s = .next (s.takeFault f))

/-- The target minus one, then the cycle's increment: every jump that is taken, and `call`, lands exactly on its target, for every
target. -/
def Obligations.TransfersLandExactlyOnTheTarget : Prop :=
  (∀ (s : State) (op0 : Ref),
    (∀ t, rd 0 op0 s = .ok t → transfer op0 s = .ok (s.setPc (wrap32 (t.toInt - 1)))) ∧
    (∀ f, rd 0 op0 s = .error f → transfer op0 s = .error f)) ∧
  ∀ (s : State) (op0 : Ref) (i : Instr) (t : Word),
    s.status = .running → fetch s = .ok i →
    (i = .jmp op0 ∨ (i = .je op0 ∧ s.flags.getLsbD 0 = true) ∨ (i = .jne op0 ∧ s.flags.getLsbD 0 = false) ∨
      (i = .jg op0 ∧ s.flags.getLsbD 1 = true) ∨
      (i = .jge op0 ∧ (s.flags.getLsbD 0 = true ∨ s.flags.getLsbD 1 = true)) ∨
      (i = .jl op0 ∧ s.flags.getLsbD 0 = false ∧ s.flags.getLsbD 1 = false) ∨
      (i = .jle op0 ∧ s.flags.getLsbD 1 = false) → rd 0 op0 s = .ok t → step s = .next (s.setPc t)) ∧
    (∀ a v, i = .call op0 → s.ip = .int v → s.sp = .addr a → s.cfg.stackLimit < a →
      rd 0 op0 ((s.setSp (.addr (a - 1))).memWrite (a - 1) v) = .ok t →
      step s = .next (((s.setSp (.addr (a - 1))).memWrite (a - 1) v).setPc t))

/-- `call`: its own index is pushed, then the target is read and stored minus one; the stack's faults come before the operand's, and
a fault of the operand undoes the push (decisions D7, D8, D17). -/
def Obligations.CallPushesItsIndexThenTransfers : Prop :=
  ∀ (s : State) (op0 : Ref) (v : Word), s.ip = .int v →
    (∀ a, s.sp = .addr a → s.cfg.stackLimit < a →
      (∀ t, rd 0 op0 ((s.setSp (.addr (a - 1))).memWrite (a - 1) v) = .ok t →
        exec (.call op0) s =
          .next (((s.setSp (.addr (a - 1))).memWrite (a - 1) v).setPc (wrap32 (t.toInt - 1)))) ∧
      (∀ f, rd 0 op0 ((s.setSp (.addr (a - 1))).memWrite (a - 1) v) = .error f →
        exec (.call op0) s = .next (s.takeFault f))) ∧
    (∀ w, s.sp = .int w → exec (.call op0) s = .next (s.takeFault (.tagFault s.cfg.idxSp))) ∧
    (∀ a, s.sp = .addr a → a ≤ s.cfg.stackLimit → exec (.call op0) s = .next (s.takeFault (.stackOverflow a)))

/-- The six conditional jumps: fired, they store the target minus one or take the operand's fault; not fired, they change nothing and
do not look at the operand. -/
def Obligations.ConditionalJumpsTestTheFlags : Prop :=
  ∀ (s : State) (op0 : Ref),
    let jumps := fun (i : Instr) (opc : Word) (fires : Prop) =>
      i.opcode = opc ∧
      (fires → (∀ t, rd 0 op0 s = .ok t → exec i s = .next (s.setPc (wrap32 (t.toInt - 1)))) ∧
        (∀ f, rd 0 op0 s = .error f → exec i s = .next (s.takeFault f))) ∧
      (¬fires → exec i s = .next s)
    jumps (.je op0) 25 (s.flags.getLsbD 0 = true) ∧
    jumps (.jne op0) 26 (s.flags.getLsbD 0 = false) ∧
    jumps (.jg op0) 27 (s.flags.getLsbD 1 = true) ∧
    jumps (.jge op0) 28 (s.flags.getLsbD 0 = true ∨ s.flags.getLsbD 1 = true) ∧
    jumps (.jl op0) 29 (s.flags.getLsbD 0 = false ∧ s.flags.getLsbD 1 = false) ∧
    jumps (.jle op0) 30 (s.flags.getLsbD 1 = false)

/-- After `cmp` of `a` with `b` a conditional jump fires exactly when its signed relation between `a` and `b` holds. -/
def Obligations.JumpsAfterCmpFollowTheRelation : Prop :=
  ∀ (s : State) (op0 op1 target : Ref) (a b t : Word),
    rd 0 op0 s = .ok a → rd 1 op1 s = .ok b → rd 0 target s = .ok t →
    ∃ u, exec (.cmp op0 op1) s = .next u ∧
      let taken := Host.Outcome.next (ρ := Refusal) (φ := Fault) (u.setPc (wrap32 (t.toInt - 1)))
      exec (.je target) u = (if a.toInt = b.toInt then taken else .next u) ∧
      exec (.jne target) u = (if a.toInt ≠ b.toInt then taken else .next u) ∧
      exec (.jg target) u = (if a.toInt > b.toInt then taken else .next u) ∧
      exec (.jge target) u = (if a.toInt ≥ b.toInt then taken else .next u) ∧
      exec (.jl target) u = (if a.toInt < b.toInt then taken else .next u) ∧
      exec (.jle target) u = (if a.toInt ≤ b.toInt then taken else .next u)

/-- `ret`: `pc` takes the word on top and `sp` rises; with an empty stack or an integer in `sp` it faults (decisions D7, D18). -/
def Obligations.RetTakesTheReturnIndex : Prop :=
  ∀ s : State,
    (∀ a, s.sp = .addr a → a < s.cfg.memCells → s.cfg.idxSp ≠ s.cfg.idxIp →
      exec .ret s = .next ((s.setPc (s.memRead a)).setSp (.addr (a + 1)))) ∧
    (∀ w, s.sp = .int w → exec .ret s = .next (s.takeFault (.tagFault s.cfg.idxSp))) ∧
    (∀ a, s.sp = .addr a → s.cfg.memCells ≤ a → exec .ret s = .next (s.takeFault (.stackUnderflow a)))

/-- A `ret` that finds `sp` and the pushed cell as a completed `call` left them resumes one past the `call` and restores `sp`,
whatever ran in between. -/
def Obligations.RetResumesAfterTheCall : Prop :=
  ∀ (s u v : State) (op0 : Ref) (a : Nat) (i : Word),
    s.wf → s.ip = .int i → s.sp = .addr a → exec (.call op0) s = .next u → u.status = .running →
    v.cfg = u.cfg → v.program = u.program → v.status = .running → v.sp = u.sp →
    v.memRead (a - 1) = u.memRead (a - 1) → fetch v = .ok .ret →
    ∃ w, step v = .next w ∧ w.pc = wrap32 (i.toInt + 1) ∧ w.sp = .addr a

/-- `prn`: one element, the operand's value, is appended to `Out`; nothing else changes. -/
def Obligations.PrnAppendsToTheOutput : Prop :=
  ∀ (s : State) (op0 : Ref),
    (Instr.prn op0).opcode = 31 ∧
    (∀ v, rd 0 op0 s = .ok v → exec (.prn op0) s = .next { s with out := s.out ++ [v] }) ∧
    (∀ f, rd 0 op0 s = .error f → exec (.prn op0) s = .next (s.takeFault f))

/-- The text of one output is its signed decimal numeral and a line feed: `-` exactly for negative values, digits only, no leading
zero, and the digits denote the magnitude (decision D19). -/
def Obligations.OutputLineIsTheDecimalNumeral : Prop :=
  ∀ v : Word, ∃ ds : List Char,
    renderLine v = (if v.toInt < 0 then ['-'] else []) ++ ds ++ ['\n'] ∧
    ds ≠ [] ∧ (∀ c ∈ ds, '0' ≤ c ∧ c ≤ '9') ∧ (ds.head? = some '0' → ds = ['0']) ∧
    ds.foldl (fun n c => 10 * n + (c.toNat - 48)) 0 = v.toInt.natAbs

/-! ## Faults (spec/60_exceptions.md) -/

/-- A step that ends Faulted changes nothing but the status, which records the fault and the index in `pc`; no further step is taken
(decision D8; log 6 for the answer of the further step). -/
def Obligations.FaultsArePreciseAndTerminal : Prop :=
  ∀ (s t : State) (f : Fault) (j : Word), step s = .next t → t.status = .faulted f j →
    j = s.pc ∧ t = { s with status := .faulted f s.pc } ∧ step t = .fault f

/-- An instruction raises only the faults of its row in the spec's table (spec/60_exceptions.md section 2). -/
def Obligations.InstructionsRaiseOnlyTheirFaults : Prop :=
  ∀ (i : Instr) (s t : State) (f : Fault) (j : Word),
    s.status = .running → exec i s = .next t → t.status = .faulted f j → f.code ∈ raisableCodes i

/-- A well-formed Program never raises `IllegalOpcode`, `MalformedOperand` or `OperandRange` (codes 2, 3, 4), however long it runs
from a well-formed state (spec/30_encoding.md section 5; decision D25). -/
def Obligations.WellFormedProgramsRaiseNoOperandFaults : Prop :=
  ∀ (s : State), s.wf → programWf s.cfg s.program → s.status = .running →
    ∀ k t f j, Host.Core.run core k s = .next t → t.status = .faulted f j →
      f.code ≠ 2 ∧ f.code ≠ 3 ∧ f.code ≠ 4

/-! ## State and whole-machine rules (spec/10_state.md, spec/70_reset_and_hazards.md) -/

/-- What creation leaves (spec/10_state.md section 7), for every configuration and for `State.reset`. That a zeroed slot reads
`Int(0)` is the decision D27, that `FLAGS` and `REM` are 0 is D15, that `Out` is empty is D23, that the status is Halted is D28; the
empty Program is the model's choice (log 8), as are the sizes of `State.reset` (log 2); its slot numbers and byte order are the
decisions D2 and D16 (log 3). -/
def Obligations.CreationLeavesTheResetValues : Prop :=
  (∀ (cfg : Config) (s : State), s = State.create cfg →
    s.sp = .addr cfg.memCells ∧ s.sb = .addr cfg.memCells ∧
    (∀ i, i ≠ cfg.idxSp → i ≠ cfg.idxSb → s.reg i = .int 0) ∧
    (∀ c, s.memRead c = 0) ∧ (∀ a, s.byteView a = 0) ∧ s.flags = 0 ∧ s.rem = 0 ∧ s.out = [] ∧ s.status = .halted ∧
    s.cfg = cfg ∧ s.program.code = [] ∧ s.program.start = 0) ∧
  State.reset = State.create State.reset.cfg ∧
  State.reset.cfg = { memBytes := 4096, stackBytes := 256, idxSp := 6, idxSb := 7, idxIp := 8, byteOrder := .little } ∧
  State.reset.sp = .addr 1024 ∧ State.reset.ip = .int 0

/-- Creation with admissible parameters (spec/00_scope.md section 4) gives a well-formed state, and so is the state after reset,
whose sizes are the model's choice (log 2). -/
def Obligations.CreationIsWellFormed : Prop :=
  (∀ cfg : Config, cfg.wf → (State.create cfg).wf) ∧ State.reset.wf

/-- The host's loading keeps a created state well formed: launch cells inside the block, any Program, and `run` (the order of
spec/70_reset_and_hazards.md section 2; decision D22). `run` sets `ip` and the status and nothing else. What a launch write outside
the block does is the model's choice (log 20), and no clause speaks of it. -/
def Obligations.LaunchIsWellFormed : Prop :=
  (∀ (cfg : Config) (p : Program) (cells : List (Nat × Word)), cfg.wf → (∀ cv ∈ cells, cv.1 < cfg.memCells) →
    (State.launch cfg p cells).wf ∧ (State.launch cfg p cells).status = .running ∧
    (State.launch cfg p cells).ip = .int p.start) ∧
  (∀ s : State, s.beginRun.ip = .int s.program.start ∧ s.beginRun.status = .running ∧
    (∀ j, j ≠ s.cfg.idxIp → s.beginRun.reg j = s.reg j) ∧ s.beginRun.mem = s.mem ∧ s.beginRun.flags = s.flags ∧
    s.beginRun.rem = s.rem ∧ s.beginRun.out = s.out ∧ s.beginRun.cfg = s.cfg ∧ s.beginRun.program = s.program)

/-- The launch state is the reset state with the launch cells changed (spec/70_reset_and_hazards.md section 2, spec/10_state.md
section 7; decisions D15, D22, D23, D27): it holds the Program loaded; a cell holds the last value written to it, and 0 if none was;
`sp`, `sb`, `FLAGS`, `REM`, `Out` and every slot but `ip` are as creation leaves them; `run` has set `ip` to `START` and the status
to Running (decision D28). -/
def Obligations.LaunchStateIsTheResetStateWithItsCells : Prop :=
  ∀ (cfg : Config) (p : Program) (cells : List (Nat × Word)) (s : State),
    cfg.wf → (∀ cv ∈ cells, cv.1 < cfg.memCells) → s = State.launch cfg p cells →
    s.program = p ∧ s.cfg = cfg ∧
    (∀ before c v after, cells = before ++ (c, v) :: after → (∀ cv ∈ after, cv.1 ≠ c) → s.memRead c = v) ∧
    (∀ c, (∀ cv ∈ cells, cv.1 ≠ c) → s.memRead c = 0) ∧
    (∀ a, (∀ cv ∈ cells, a < 4 * cv.1 ∨ 4 * cv.1 + 4 ≤ a) → s.byteView a = 0) ∧
    s.sp = .addr cfg.memCells ∧ s.sb = .addr cfg.memCells ∧
    (∀ j, j ≠ cfg.idxSp → j ≠ cfg.idxSb → j ≠ cfg.idxIp → s.reg j = .int 0) ∧
    s.flags = 0 ∧ s.rem = 0 ∧ s.out = [] ∧ s.ip = .int p.start ∧ s.status = .running

/-- Every step keeps a state well formed: addresses only in `sp` and `sb` and within the stack region, `ip` an integer, `FLAGS` never
3, memory canonical and inside the block. -/
def Obligations.EveryStepKeepsTheStateWellFormed : Prop :=
  ∀ s t : State, s.wf → step s = .next t → t.wf

/-- The frame of every instruction: a body changes no slot but its destination operand, `sp` for the stack instructions and `ip` for
the control transfers; no byte of memory outside the cell it stores to; `FLAGS` only for `cmp`, `REM` only for `mod`, `Out` only for
`prn`; never the parameters or the Program; and the status only for the sentinel and a fault taken. -/
def Obligations.InstructionsWriteOnlyTheirFootprint : Prop :=
  ∀ (i : Instr) (s t : State), exec i s = .next t →
    (∀ j : Fin 17, mayWriteSlot s.cfg i j = false → t.reg j = s.reg j) ∧
    (∀ a, (∀ c, storedCell i s = some c → a < 4 * c ∨ 4 * c + 4 ≤ a) → t.byteView a = s.byteView a) ∧
    ((∀ x y, i ≠ .cmp x y) → t.flags = s.flags) ∧
    ((∀ x y, i ≠ .mod x y) → t.rem = s.rem) ∧
    ((∀ x, i ≠ .prn x) → t.out = s.out) ∧
    t.cfg = s.cfg ∧ t.program = s.program ∧
    (i ≠ .sentinel → t.status = s.status ∨ ∃ f, t = s.takeFault f)

/-- Over whole runs: the parameters and the Program never change and `Out` only grows; a step that changes `FLAGS` ran a `cmp`, one
that changes `REM` a `mod`, one that changes `Out` a `prn`, which appends one element. -/
def Obligations.OnlyCmpModAndPrnWriteFlagsRemAndOut : Prop :=
  (∀ (k : Nat) (s t : State), Host.Core.run core k s = .next t →
    t.cfg = s.cfg ∧ t.program = s.program ∧ s.out <+: t.out) ∧
  (∀ s t : State, step s = .next t →
    (t.flags ≠ s.flags → ∃ a b, fetch s = .ok (.cmp a b)) ∧
    (t.rem ≠ s.rem → ∃ a b, fetch s = .ok (.mod a b)) ∧
    (t.out ≠ s.out → ∃ a v, fetch s = .ok (.prn a) ∧ rd 0 a s = .ok v ∧ t.out = s.out ++ [v]))

/-- No instruction produces an address: once a slot holds an integer it does for ever, so once `sp` does every later stack
instruction faults (decision D7). -/
def Obligations.AddressesAreNeverMade : Prop :=
  ∀ (k : Nat) (s t : State) (j : Fin 17) (v : Word), s.reg j = .int v → Host.Core.run core k s = .next t →
    ∃ w, t.reg j = .int w

/-- The stack base takes no part in anything: with another value in `sb`, an instruction that does not name `sb` as an operand makes
the same step, and leaves that value in `sb`. -/
def Obligations.StackBaseIsNeverUsed : Prop :=
  ∀ (s t : State) (i : Instr) (x : Slot), s.cfg.wf → fetch s = .ok i →
    (∀ r ∈ i.operands, r ≠ .registerSlot s.cfg.idxSb) → step s = .next t →
    step (s.setReg s.cfg.idxSb x) = .next (t.setReg s.cfg.idxSb x)

/-- The host's single `step` is the body alone: no increment, and on a sentinel record `IllegalOpcode(-1)` (decision D10; the status
it leaves is the model's, log 16). -/
def Obligations.HostStepIsTheBodyAlone : Prop :=
  ∀ s : State,
    (∀ i, fetch s = .ok i → i ≠ .sentinel → hostStep s = exec i s) ∧
    (fetch s = .ok .sentinel → hostStep s = .next (s.takeFault (.illegalOpcode (-1)))) ∧
    (∀ f, fetch s = .error f → hostStep s = .next (s.takeFault f))
end

