-- ==== Sys2Proof/Laws/State.lean ====
section
/-! SUPPORT. The small lemmas of the state's updates: one lemma per field per update, and what the register accessors read after
each update. -/

namespace Sys2Proof.Machine

@[simp] theorem State.setReg_cfg (s : State) (i : Fin 17) (t : Slot) : (s.setReg i t).cfg = s.cfg := rfl
@[simp] theorem State.setReg_program (s : State) (i : Fin 17) (t : Slot) : (s.setReg i t).program = s.program := rfl
@[simp] theorem State.setReg_flags (s : State) (i : Fin 17) (t : Slot) : (s.setReg i t).flags = s.flags := rfl
@[simp] theorem State.setReg_rem (s : State) (i : Fin 17) (t : Slot) : (s.setReg i t).rem = s.rem := rfl
@[simp] theorem State.setReg_mem (s : State) (i : Fin 17) (t : Slot) : (s.setReg i t).mem = s.mem := rfl
@[simp] theorem State.setReg_out (s : State) (i : Fin 17) (t : Slot) : (s.setReg i t).out = s.out := rfl
@[simp] theorem State.setReg_status (s : State) (i : Fin 17) (t : Slot) : (s.setReg i t).status = s.status := rfl

@[simp] theorem State.setSp_cfg (s : State) (t : Slot) : (s.setSp t).cfg = s.cfg := rfl
@[simp] theorem State.setSp_program (s : State) (t : Slot) : (s.setSp t).program = s.program := rfl
@[simp] theorem State.setSp_flags (s : State) (t : Slot) : (s.setSp t).flags = s.flags := rfl
@[simp] theorem State.setSp_rem (s : State) (t : Slot) : (s.setSp t).rem = s.rem := rfl
@[simp] theorem State.setSp_mem (s : State) (t : Slot) : (s.setSp t).mem = s.mem := rfl
@[simp] theorem State.setSp_out (s : State) (t : Slot) : (s.setSp t).out = s.out := rfl
@[simp] theorem State.setSp_status (s : State) (t : Slot) : (s.setSp t).status = s.status := rfl

@[simp] theorem State.setPc_cfg (s : State) (v : Word) : (s.setPc v).cfg = s.cfg := rfl
@[simp] theorem State.setPc_program (s : State) (v : Word) : (s.setPc v).program = s.program := rfl
@[simp] theorem State.setPc_flags (s : State) (v : Word) : (s.setPc v).flags = s.flags := rfl
@[simp] theorem State.setPc_rem (s : State) (v : Word) : (s.setPc v).rem = s.rem := rfl
@[simp] theorem State.setPc_mem (s : State) (v : Word) : (s.setPc v).mem = s.mem := rfl
@[simp] theorem State.setPc_out (s : State) (v : Word) : (s.setPc v).out = s.out := rfl
@[simp] theorem State.setPc_status (s : State) (v : Word) : (s.setPc v).status = s.status := rfl

@[simp] theorem State.setFlags_cfg (s : State) (f : BitVec 2) : (s.setFlags f).cfg = s.cfg := rfl
@[simp] theorem State.setFlags_program (s : State) (f : BitVec 2) : (s.setFlags f).program = s.program := rfl
@[simp] theorem State.setFlags_regs (s : State) (f : BitVec 2) : (s.setFlags f).regs = s.regs := rfl
@[simp] theorem State.setFlags_flags (s : State) (f : BitVec 2) : (s.setFlags f).flags = f := rfl
@[simp] theorem State.setFlags_rem (s : State) (f : BitVec 2) : (s.setFlags f).rem = s.rem := rfl
@[simp] theorem State.setFlags_mem (s : State) (f : BitVec 2) : (s.setFlags f).mem = s.mem := rfl
@[simp] theorem State.setFlags_out (s : State) (f : BitVec 2) : (s.setFlags f).out = s.out := rfl
@[simp] theorem State.setFlags_status (s : State) (f : BitVec 2) : (s.setFlags f).status = s.status := rfl
@[simp] theorem State.setFlags_sp (s : State) (f : BitVec 2) : (s.setFlags f).sp = s.sp := rfl
@[simp] theorem State.setFlags_sb (s : State) (f : BitVec 2) : (s.setFlags f).sb = s.sb := rfl
@[simp] theorem State.setFlags_ip (s : State) (f : BitVec 2) : (s.setFlags f).ip = s.ip := rfl
@[simp] theorem State.setFlags_pc (s : State) (f : BitVec 2) : (s.setFlags f).pc = s.pc := rfl
@[simp] theorem State.setFlags_reg (s : State) (f : BitVec 2) (j : Fin 17) : (s.setFlags f).reg j = s.reg j := rfl

@[simp] theorem State.setRem_cfg (s : State) (v : Word) : (s.setRem v).cfg = s.cfg := rfl
@[simp] theorem State.setRem_program (s : State) (v : Word) : (s.setRem v).program = s.program := rfl
@[simp] theorem State.setRem_regs (s : State) (v : Word) : (s.setRem v).regs = s.regs := rfl
@[simp] theorem State.setRem_flags (s : State) (v : Word) : (s.setRem v).flags = s.flags := rfl
@[simp] theorem State.setRem_rem (s : State) (v : Word) : (s.setRem v).rem = v := rfl
@[simp] theorem State.setRem_mem (s : State) (v : Word) : (s.setRem v).mem = s.mem := rfl
@[simp] theorem State.setRem_out (s : State) (v : Word) : (s.setRem v).out = s.out := rfl
@[simp] theorem State.setRem_status (s : State) (v : Word) : (s.setRem v).status = s.status := rfl
@[simp] theorem State.setRem_sp (s : State) (v : Word) : (s.setRem v).sp = s.sp := rfl
@[simp] theorem State.setRem_sb (s : State) (v : Word) : (s.setRem v).sb = s.sb := rfl
@[simp] theorem State.setRem_ip (s : State) (v : Word) : (s.setRem v).ip = s.ip := rfl
@[simp] theorem State.setRem_pc (s : State) (v : Word) : (s.setRem v).pc = s.pc := rfl
@[simp] theorem State.setRem_reg (s : State) (v : Word) (j : Fin 17) : (s.setRem v).reg j = s.reg j := rfl

@[simp] theorem State.emit_cfg (s : State) (v : Word) : (s.emit v).cfg = s.cfg := rfl
@[simp] theorem State.emit_program (s : State) (v : Word) : (s.emit v).program = s.program := rfl
@[simp] theorem State.emit_regs (s : State) (v : Word) : (s.emit v).regs = s.regs := rfl
@[simp] theorem State.emit_flags (s : State) (v : Word) : (s.emit v).flags = s.flags := rfl
@[simp] theorem State.emit_rem (s : State) (v : Word) : (s.emit v).rem = s.rem := rfl
@[simp] theorem State.emit_mem (s : State) (v : Word) : (s.emit v).mem = s.mem := rfl
@[simp] theorem State.emit_out (s : State) (v : Word) : (s.emit v).out = s.out ++ [v] := rfl
@[simp] theorem State.emit_status (s : State) (v : Word) : (s.emit v).status = s.status := rfl
@[simp] theorem State.emit_sp (s : State) (v : Word) : (s.emit v).sp = s.sp := rfl
@[simp] theorem State.emit_sb (s : State) (v : Word) : (s.emit v).sb = s.sb := rfl
@[simp] theorem State.emit_ip (s : State) (v : Word) : (s.emit v).ip = s.ip := rfl
@[simp] theorem State.emit_pc (s : State) (v : Word) : (s.emit v).pc = s.pc := rfl
@[simp] theorem State.emit_reg (s : State) (v : Word) (j : Fin 17) : (s.emit v).reg j = s.reg j := rfl

@[simp] theorem State.setStatus_cfg (s : State) (t : Status) : (s.setStatus t).cfg = s.cfg := rfl
@[simp] theorem State.setStatus_program (s : State) (t : Status) : (s.setStatus t).program = s.program := rfl
@[simp] theorem State.setStatus_regs (s : State) (t : Status) : (s.setStatus t).regs = s.regs := rfl
@[simp] theorem State.setStatus_flags (s : State) (t : Status) : (s.setStatus t).flags = s.flags := rfl
@[simp] theorem State.setStatus_rem (s : State) (t : Status) : (s.setStatus t).rem = s.rem := rfl
@[simp] theorem State.setStatus_mem (s : State) (t : Status) : (s.setStatus t).mem = s.mem := rfl
@[simp] theorem State.setStatus_out (s : State) (t : Status) : (s.setStatus t).out = s.out := rfl
@[simp] theorem State.setStatus_status (s : State) (t : Status) : (s.setStatus t).status = t := rfl
@[simp] theorem State.setStatus_sp (s : State) (t : Status) : (s.setStatus t).sp = s.sp := rfl
@[simp] theorem State.setStatus_sb (s : State) (t : Status) : (s.setStatus t).sb = s.sb := rfl
@[simp] theorem State.setStatus_ip (s : State) (t : Status) : (s.setStatus t).ip = s.ip := rfl
@[simp] theorem State.setStatus_pc (s : State) (t : Status) : (s.setStatus t).pc = s.pc := rfl
@[simp] theorem State.setStatus_reg (s : State) (t : Status) (j : Fin 17) : (s.setStatus t).reg j = s.reg j := rfl

@[simp] theorem State.takeFault_cfg (s : State) (f : Fault) : (s.takeFault f).cfg = s.cfg := rfl
@[simp] theorem State.takeFault_program (s : State) (f : Fault) : (s.takeFault f).program = s.program := rfl
@[simp] theorem State.takeFault_regs (s : State) (f : Fault) : (s.takeFault f).regs = s.regs := rfl
@[simp] theorem State.takeFault_flags (s : State) (f : Fault) : (s.takeFault f).flags = s.flags := rfl
@[simp] theorem State.takeFault_rem (s : State) (f : Fault) : (s.takeFault f).rem = s.rem := rfl
@[simp] theorem State.takeFault_mem (s : State) (f : Fault) : (s.takeFault f).mem = s.mem := rfl
@[simp] theorem State.takeFault_out (s : State) (f : Fault) : (s.takeFault f).out = s.out := rfl
@[simp] theorem State.takeFault_status (s : State) (f : Fault) : (s.takeFault f).status = .faulted f s.pc := rfl
@[simp] theorem State.takeFault_sp (s : State) (f : Fault) : (s.takeFault f).sp = s.sp := rfl
@[simp] theorem State.takeFault_sb (s : State) (f : Fault) : (s.takeFault f).sb = s.sb := rfl
@[simp] theorem State.takeFault_ip (s : State) (f : Fault) : (s.takeFault f).ip = s.ip := rfl
@[simp] theorem State.takeFault_pc (s : State) (f : Fault) : (s.takeFault f).pc = s.pc := rfl
@[simp] theorem State.takeFault_reg (s : State) (f : Fault) (j : Fin 17) : (s.takeFault f).reg j = s.reg j := rfl

@[simp] theorem State.memWrite_cfg (s : State) (c : Nat) (v : Word) : (s.memWrite c v).cfg = s.cfg := rfl
@[simp] theorem State.memWrite_program (s : State) (c : Nat) (v : Word) : (s.memWrite c v).program = s.program := rfl
@[simp] theorem State.memWrite_regs (s : State) (c : Nat) (v : Word) : (s.memWrite c v).regs = s.regs := rfl
@[simp] theorem State.memWrite_flags (s : State) (c : Nat) (v : Word) : (s.memWrite c v).flags = s.flags := rfl
@[simp] theorem State.memWrite_rem (s : State) (c : Nat) (v : Word) : (s.memWrite c v).rem = s.rem := rfl
@[simp] theorem State.memWrite_mem (s : State) (c : Nat) (v : Word) : (s.memWrite c v).mem = s.mem.writeCell s.cfg.byteOrder c v := rfl
@[simp] theorem State.memWrite_out (s : State) (c : Nat) (v : Word) : (s.memWrite c v).out = s.out := rfl
@[simp] theorem State.memWrite_status (s : State) (c : Nat) (v : Word) : (s.memWrite c v).status = s.status := rfl
@[simp] theorem State.memWrite_sp (s : State) (c : Nat) (v : Word) : (s.memWrite c v).sp = s.sp := rfl
@[simp] theorem State.memWrite_sb (s : State) (c : Nat) (v : Word) : (s.memWrite c v).sb = s.sb := rfl
@[simp] theorem State.memWrite_ip (s : State) (c : Nat) (v : Word) : (s.memWrite c v).ip = s.ip := rfl
@[simp] theorem State.memWrite_pc (s : State) (c : Nat) (v : Word) : (s.memWrite c v).pc = s.pc := rfl
@[simp] theorem State.memWrite_reg (s : State) (c : Nat) (v : Word) (j : Fin 17) : (s.memWrite c v).reg j = s.reg j := rfl

@[simp] theorem State.advance_cfg (s : State) : s.advance.cfg = s.cfg := rfl
@[simp] theorem State.advance_program (s : State) : s.advance.program = s.program := rfl
@[simp] theorem State.advance_flags (s : State) : s.advance.flags = s.flags := rfl
@[simp] theorem State.advance_rem (s : State) : s.advance.rem = s.rem := rfl
@[simp] theorem State.advance_mem (s : State) : s.advance.mem = s.mem := rfl
@[simp] theorem State.advance_out (s : State) : s.advance.out = s.out := rfl
@[simp] theorem State.advance_status (s : State) : s.advance.status = s.status := rfl

/-- A slot after a write of a slot. -/
theorem State.reg_setReg (s : State) (i j : Fin 17) (t : Slot) :
    (s.setReg i t).reg j = if i = j then t else s.reg j := by
  simp [State.reg, State.setReg, Vector.getElem_set, Fin.ext_iff]

@[simp] theorem State.reg_setReg_self (s : State) (i : Fin 17) (t : Slot) : (s.setReg i t).reg i = t := by
  simp [State.reg_setReg]

theorem State.reg_setReg_of_ne (s : State) {i j : Fin 17} (t : Slot) (h : i ≠ j) : (s.setReg i t).reg j = s.reg j := by
  simp [State.reg_setReg, h]

theorem State.reg_setPc (s : State) (v : Word) (j : Fin 17) :
    (s.setPc v).reg j = if s.cfg.idxIp = j then .int v else s.reg j := State.reg_setReg ..

theorem State.reg_setSp (s : State) (t : Slot) (j : Fin 17) :
    (s.setSp t).reg j = if s.cfg.idxSp = j then t else s.reg j := State.reg_setReg ..

@[simp] theorem State.ip_setPc (s : State) (v : Word) : (s.setPc v).ip = .int v := by
  simp [State.ip, State.reg_setPc]

@[simp] theorem State.pc_setPc (s : State) (v : Word) : (s.setPc v).pc = v := by
  simp [State.pc]

@[simp] theorem State.sp_setSp (s : State) (t : Slot) : (s.setSp t).sp = t := by
  simp [State.sp, State.reg_setSp]

theorem State.sp_setPc (s : State) (v : Word) (h : s.cfg.idxSp ≠ s.cfg.idxIp) : (s.setPc v).sp = s.sp := by
  simp [State.sp, State.reg_setPc, h.symm]

theorem State.ip_setSp (s : State) (t : Slot) (h : s.cfg.idxSp ≠ s.cfg.idxIp) : (s.setSp t).ip = s.ip := by
  simp [State.ip, State.reg_setSp, h]

theorem State.pc_setSp (s : State) (t : Slot) (h : s.cfg.idxSp ≠ s.cfg.idxIp) : (s.setSp t).pc = s.pc := by
  simp [State.pc, State.ip_setSp s t h]

theorem State.sb_setPc (s : State) (v : Word) (h : s.cfg.idxSb ≠ s.cfg.idxIp) : (s.setPc v).sb = s.sb := by
  simp [State.sb, State.reg_setPc, h.symm]

theorem State.sb_setSp (s : State) (t : Slot) (h : s.cfg.idxSp ≠ s.cfg.idxSb) : (s.setSp t).sb = s.sb := by
  simp [State.sb, State.reg_setSp, h]

theorem State.pc_of_ip {s : State} {v : Word} (h : s.ip = .int v) : s.pc = v := by
  simp [State.pc, h]

@[simp] theorem State.setReg_setReg_self (s : State) (i : Fin 17) (t u : Slot) :
    (s.setReg i t).setReg i u = s.setReg i u := by
  simp [State.setReg]

/-- Two states are equal when their fields and their slots are. -/
theorem State.ext_reg {s t : State} (hc : s.cfg = t.cfg) (hp : s.program = t.program) (hr : ∀ i, s.reg i = t.reg i)
    (hf : s.flags = t.flags) (hm : s.rem = t.rem) (hmem : s.mem = t.mem) (ho : s.out = t.out)
    (hs : s.status = t.status) : s = t := by
  have hregs : s.regs = t.regs := Vector.ext fun i hi => hr ⟨i, hi⟩
  cases s
  cases t
  simp_all

/-- The register file after creation (spec/10_state.md R39). -/
theorem State.create_reg (cfg : Config) (i : Fin 17) :
    (State.create cfg).reg i = if i = cfg.idxSp ∨ i = cfg.idxSb then .addr cfg.memCells else .int 0 := by
  simp only [State.create, State.reg, createdRegs, Vector.getElem_set, Vector.getElem_replicate, Fin.ext_iff,
    @eq_comm _ i.val]
  by_cases h1 : cfg.idxSp.val = i.val <;> by_cases h2 : cfg.idxSb.val = i.val <;> simp [h1, h2]

end Sys2Proof.Machine
end

