-- ==== Sys2Proof/Laws/Memory.lean ====
section
/-! SUPPORT. The laws of the memory block: read after write for bytes and cells, what a write leaves alone, and that every memory
operation keeps the canonical form. -/

namespace Sys2Proof.Machine

theorem Memory.byteAt_filter (m : Memory) (a b : Nat) :
    Memory.byteAt (m.filter fun c => c.1 != a) b = if b = a then Memory.blank else m.byteAt b := by
  induction m with
  | nil => simp [Memory.byteAt]
  | cons c t ih =>
    obtain ⟨k, v⟩ := c
    by_cases hk : k = a
    · subst hk
      simp only [List.filter, bne_self_eq_false, ih, Memory.byteAt]
      by_cases hb : b = k
      · simp [hb]
      · simp [hb, Ne.symm hb]
    · simp only [List.filter, bne_iff_ne.mpr hk, Memory.byteAt, ih]
      by_cases hb : k = b
      · subst hb
        simp [hk]
      · simp [hb]

theorem Memory.byteAt_insertByte (m : Memory) (a : Nat) (v : Byte) (b : Nat) (h : ∀ c ∈ m, c.1 ≠ a) :
    (Memory.insertByte a v m).byteAt b = if b = a then v else m.byteAt b := by
  induction m with
  | nil => simp [Memory.insertByte, Memory.byteAt, eq_comm]
  | cons c t ih =>
    obtain ⟨k, w⟩ := c
    have hk : k ≠ a := h (k, w) (by simp)
    have ih' := ih fun c hc => h c (by simp [hc])
    by_cases hlt : a < k
    · simp [Memory.insertByte, hlt, Memory.byteAt, eq_comm]
    · simp only [Memory.insertByte, hlt, if_false, Memory.byteAt, ih']
      by_cases hb : k = b
      · subst hb
        simp [hk]
      · simp [hb]

/-- One byte after a write of one byte. -/
theorem Memory.byteAt_setByte (m : Memory) (a : Nat) (v : Byte) (b : Nat) :
    (m.setByte a v).byteAt b = if b = a then v else m.byteAt b := by
  by_cases hv : v = Memory.blank
  · rw [Memory.setByte, if_pos hv, Memory.byteAt_filter, hv]
  · rw [Memory.setByte, if_neg hv, Memory.byteAt_insertByte _ _ _ _ (by simp), Memory.byteAt_filter]
    by_cases hb : b = a <;> simp [hb]

theorem Memory.mem_insertByte (m : Memory) (a : Nat) (v : Byte) (c : Host.Cell) :
    c ∈ Memory.insertByte a v m ↔ c = (a, v) ∨ c ∈ m := by
  induction m with
  | nil => simp [Memory.insertByte]
  | cons d t ih =>
    obtain ⟨k, w⟩ := d
    by_cases hlt : a < k
    · simp [Memory.insertByte, hlt]
    · simp only [Memory.insertByte, hlt, if_false, List.mem_cons, ih]
      tauto

theorem Memory.pairwise_insertByte (m : Memory) (a : Nat) (v : Byte) (hs : m.Pairwise fun p q => p.1 < q.1)
    (h : ∀ c ∈ m, c.1 ≠ a) : (Memory.insertByte a v m).Pairwise fun p q => p.1 < q.1 := by
  induction m with
  | nil => simp [Memory.insertByte]
  | cons d t ih =>
    obtain ⟨k, w⟩ := d
    obtain ⟨hd, ht⟩ := List.pairwise_cons.mp hs
    by_cases hlt : a < k
    · simp only [Memory.insertByte, hlt, if_true]
      refine List.pairwise_cons.mpr ⟨fun c hc => ?_, hs⟩
      rcases List.mem_cons.mp hc with rfl | hc
      · exact hlt
      · exact lt_trans hlt (hd c hc)
    · simp only [Memory.insertByte, hlt, if_false]
      refine List.pairwise_cons.mpr ⟨fun c hc => ?_, ih ht fun c hc => h c (by simp [hc])⟩
      rcases (Memory.mem_insertByte t a v c).mp hc with rfl | hc
      · have : k ≠ a := h (k, w) (by simp)
        show k < a
        omega
      · exact hd c hc

/-- A write of one byte keeps the canonical form. -/
theorem Memory.wf_setByte {m : Memory} (h : m.wf) (a : Nat) (v : Byte) : (m.setByte a v).wf := by
  have hf : (m.filter fun c => c.1 != a).Pairwise fun p q => p.1 < q.1 := h.1.filter _
  by_cases hv : v = Memory.blank
  · simp only [Memory.setByte, if_pos hv]
    exact ⟨hf, fun c hc => h.2 c (List.mem_filter.mp hc).1⟩
  · simp only [Memory.setByte, if_neg hv]
    refine ⟨Memory.pairwise_insertByte _ _ _ hf (by simp), fun c hc => ?_⟩
    rcases (Memory.mem_insertByte _ _ _ _).mp hc with rfl | hc
    · exact hv
    · exact h.2 c (List.mem_filter.mp hc).1

/-- A byte listed after a write of one byte was listed before or is the one written. -/
theorem Memory.mem_setByte {m : Memory} {a : Nat} {v : Byte} {c : Host.Cell} (h : c ∈ m.setByte a v) :
    c = (a, v) ∨ c ∈ m := by
  unfold Memory.setByte at h
  split at h
  · exact .inr (List.mem_filter.mp h).1
  · rcases (Memory.mem_insertByte _ _ _ _).mp h with h | h
    · exact .inl h
    · exact .inr (List.mem_filter.mp h).1

/-- A write of a cell keeps the canonical form. -/
theorem Memory.wf_writeCell {m : Memory} (h : m.wf) (o : ByteOrder) (c : Nat) (v : Word) : (m.writeCell o c v).wf :=
  Memory.wf_setByte (Memory.wf_setByte (Memory.wf_setByte (Memory.wf_setByte h _ _) _ _) _ _) _ _

/-- A byte listed after a write of cell `c` is one of its four bytes or was listed before. -/
theorem Memory.mem_writeCell {m : Memory} {o : ByteOrder} {c : Nat} {v : Word} {b : Host.Cell}
    (h : b ∈ m.writeCell o c v) : (4 * c ≤ b.1 ∧ b.1 < 4 * c + 4) ∨ b ∈ m := by
  unfold Memory.writeCell at h
  rcases Memory.mem_setByte h with rfl | h
  · left; constructor <;> simp
  rcases Memory.mem_setByte h with rfl | h
  · left; constructor <;> simp
  rcases Memory.mem_setByte h with rfl | h
  · left; constructor <;> simp
  rcases Memory.mem_setByte h with rfl | h
  · left; constructor <;> simp
  exact .inr h

/-- A byte outside the written cell is unchanged (spec/20_memory.md R52: no other cell changes). -/
theorem Memory.byteAt_writeCell_of_outside (m : Memory) (o : ByteOrder) (c : Nat) (v : Word) (a : Nat)
    (h : a < 4 * c ∨ 4 * c + 4 ≤ a) : (m.writeCell o c v).byteAt a = m.byteAt a := by
  have h0 : a ≠ 4 * c := by omega
  have h1 : a ≠ 4 * c + 1 := by omega
  have h2 : a ≠ 4 * c + 2 := by omega
  have h3 : a ≠ 4 * c + 3 := by omega
  simp [Memory.writeCell, Memory.byteAt_setByte, h0, h1, h2, h3]

/-- A byte of the written cell (spec/20_memory.md R53). -/
theorem Memory.byteAt_writeCell_inside (m : Memory) (o : ByteOrder) (c : Nat) (v : Word) (k : Nat) (h : k < 4) :
    (m.writeCell o c v).byteAt (4 * c + k) = cellByte o v k := by
  obtain rfl | rfl | rfl | rfl : k = 0 ∨ k = 1 ∨ k = 2 ∨ k = 3 := by omega
  all_goals simp [Memory.writeCell, Memory.byteAt_setByte]

/-- The bytes of a word make the word, in either byte order. -/
theorem cellValue_cellByte (o : ByteOrder) (v : Word) :
    cellValue o (cellByte o v 0) (cellByte o v 1) (cellByte o v 2) (cellByte o v 3) = v := by
  apply BitVec.eq_of_getLsbD_eq
  intro i hi
  cases o <;> simp only [cellValue, cellByte, byteShift, BitVec.getLsbD_append, BitVec.getLsbD_extractLsb'] <;>
    interval_cases i <;> simp

/-- A cell after a write of a cell (spec/20_memory.md R52, R59). -/
theorem Memory.readCell_writeCell (m : Memory) (o : ByteOrder) (c d : Nat) (v : Word) :
    (m.writeCell o c v).readCell o d = if d = c then v else m.readCell o d := by
  by_cases h : d = c
  · subst h
    have hb := fun k hk => Memory.byteAt_writeCell_inside m o d v k hk
    rw [if_pos rfl, Memory.readCell, hb 1 (by omega), hb 2 (by omega), hb 3 (by omega)]
    rw [show 4 * d = 4 * d + 0 from rfl, hb 0 (by omega)]
    exact cellValue_cellByte o v
  · rw [if_neg h]
    simp only [Memory.readCell]
    rw [Memory.byteAt_writeCell_of_outside _ _ _ _ _ (by omega), Memory.byteAt_writeCell_of_outside _ _ _ _ _ (by omega),
      Memory.byteAt_writeCell_of_outside _ _ _ _ _ (by omega), Memory.byteAt_writeCell_of_outside _ _ _ _ _ (by omega)]

/-- A cell of the zeroed block reads 0 (spec/10_state.md R39). -/
@[simp] theorem Memory.readCell_nil (o : ByteOrder) (c : Nat) : Memory.readCell o [] c = 0 := by
  cases o <;> simp [Memory.readCell, Memory.byteAt, Memory.blank, cellValue]

/-- `MemRead` after `MemWrite` (spec/20_memory.md R52). -/
theorem State.memRead_memWrite (s : State) (c d : Nat) (v : Word) :
    (s.memWrite c v).memRead d = if d = c then v else s.memRead d :=
  Memory.readCell_writeCell ..

@[simp] theorem State.memRead_memWrite_self (s : State) (c : Nat) (v : Word) : (s.memWrite c v).memRead c = v := by
  simp [State.memRead_memWrite]

@[simp] theorem State.memRead_setReg (s : State) (i : Fin 17) (t : Slot) (c : Nat) :
    (s.setReg i t).memRead c = s.memRead c := rfl

@[simp] theorem State.memRead_setSp (s : State) (t : Slot) (c : Nat) : (s.setSp t).memRead c = s.memRead c := rfl

@[simp] theorem State.memRead_setPc (s : State) (v : Word) (c : Nat) : (s.setPc v).memRead c = s.memRead c := rfl

/-- Writing back the word a cell holds leaves every cell as it was. -/
theorem State.memRead_memWrite_memRead (s : State) (c d : Nat) :
    (s.memWrite c (s.memRead c)).memRead d = s.memRead d := by
  rw [State.memRead_memWrite]
  split
  · next h => rw [h]
  · rfl

/-- One launch write, then the rest (spec/70_reset_and_hazards.md R282). -/
@[simp] theorem State.poke_cons (s : State) (cv : Nat × Word) (cells : List (Nat × Word)) :
    s.poke (cv :: cells) = (s.memWrite cv.1 cv.2).poke cells := rfl

@[simp] theorem State.poke_nil (s : State) : s.poke [] = s := rfl

theorem State.poke_append (s : State) (xs ys : List (Nat × Word)) : s.poke (xs ++ ys) = (s.poke xs).poke ys :=
  List.foldl_append

/-- The launch writes change nothing but the memory block. -/
theorem State.poke_eq (s : State) (cells : List (Nat × Word)) : s.poke cells = { s with mem := (s.poke cells).mem } := by
  induction cells generalizing s with
  | nil => rfl
  | cons cv t ih => exact ih (s.memWrite cv.1 cv.2)

/-- The launch writes keep the canonical form. -/
theorem State.wf_mem_poke {s : State} (h : s.mem.wf) (cells : List (Nat × Word)) : (s.poke cells).mem.wf := by
  induction cells generalizing s with
  | nil => exact h
  | cons cv t ih => exact ih (Memory.wf_writeCell h ..)

/-- A cell that no launch write names keeps its value. -/
theorem State.memRead_poke_of_ne (s : State) {cells : List (Nat × Word)} {c : Nat} (h : ∀ cv ∈ cells, cv.1 ≠ c) :
    (s.poke cells).memRead c = s.memRead c := by
  induction cells generalizing s with
  | nil => rfl
  | cons cv t ih =>
    rw [State.poke_cons, ih _ fun x hx => h x (.tail _ hx), State.memRead_memWrite, if_neg (h cv (.head _)).symm]

/-- A byte outside every cell that a launch write names keeps its value. -/
theorem State.byteView_poke_of_outside (s : State) {cells : List (Nat × Word)} {a : Nat}
    (h : ∀ cv ∈ cells, a < 4 * cv.1 ∨ 4 * cv.1 + 4 ≤ a) : (s.poke cells).byteView a = s.byteView a := by
  induction cells generalizing s with
  | nil => rfl
  | cons cv t ih =>
    rw [State.poke_cons, ih _ fun x hx => h x (.tail _ hx)]
    exact Memory.byteAt_writeCell_of_outside _ _ _ _ _ (h cv (.head _))

end Sys2Proof.Machine
end

