-- ==== Sys2Proof/Laws/Operands.lean ====
section
/-! SUPPORT. What each shared operation can do, said once: operand access, the unchecked write, the stack primitives, the transfer,
and the body shapes. Each `_ok` lemma says exactly when the operation answers and with what. -/

namespace Sys2Proof.Machine

@[simp] theorem except_ok_bind {ε α β : Type} (a : α) (f : α → Except ε β) : (Except.ok a >>= f) = f a := rfl

@[simp] theorem except_error_bind {ε α β : Type} (e : ε) (f : α → Except ε β) :
    ((Except.error e : Except ε α) >>= f) = .error e := rfl

theorem except_bind_ok {ε α β : Type} {x : Except ε α} {f : α → Except ε β} {b : β} :
    (x >>= f) = .ok b ↔ ∃ a, x = .ok a ∧ f a = .ok b := by
  cases x <;> simp

theorem except_bind_error {ε α β : Type} {x : Except ε α} {f : α → Except ε β} {e : ε} :
    (x >>= f) = .error e ↔ x = .error e ∨ ∃ a, x = .ok a ∧ f a = .error e := by
  cases x <;> simp

/-! Operand reads (spec/00_scope.md R12). -/

theorem rd_registerSlot_ok {pos : Fin 2} {i : Nat} {s : State} {v : Word} :
    rd pos (.registerSlot i) s = .ok v ↔ ∃ h : i < 17, s.reg ⟨i, h⟩ = .int v := by
  unfold rd
  by_cases h : i < 17
  · cases hr : s.reg ⟨i, h⟩ <;> simp [h, hr]
  · simp [h]

theorem rd_memoryCell_ok {pos : Fin 2} {c : Nat} {s : State} {v : Word} :
    rd pos (.memoryCell c) s = .ok v ↔ c < s.cfg.memCells ∧ v = s.memRead c := by
  unfold rd
  by_cases h : c < s.cfg.memCells <;> simp [h, eq_comm]

/-- Everything an operand read can answer. -/
theorem rd_ok {pos : Fin 2} {r : Ref} {s : State} {v : Word} :
    rd pos r s = .ok v ↔
      (∃ i : Fin 17, r = .registerSlot i ∧ s.reg i = .int v) ∨
      (∃ c, r = .memoryCell c ∧ c < s.cfg.memCells ∧ v = s.memRead c) := by
  cases r with
  | absent => simp [rd]
  | registerSlot i =>
    rw [rd_registerSlot_ok]
    constructor
    · rintro ⟨h, hr⟩
      exact .inl ⟨⟨i, h⟩, rfl, hr⟩
    · rintro (⟨j, hj, hr⟩ | ⟨c, hc, _⟩)
      · cases hj
        exact ⟨j.isLt, hr⟩
      · cases hc
  | memoryCell c =>
    rw [rd_memoryCell_ok]
    simp

/-- Everything an operand read can raise: absent, then range, then tag. -/
theorem rd_error {pos : Fin 2} {r : Ref} {s : State} {f : Fault} :
    rd pos r s = .error f ↔
      (r = .absent ∧ f = .malformedOperand pos) ∨
      (∃ i, r = .registerSlot i ∧ 17 ≤ i ∧ f = .operandRange pos i) ∨
      (∃ (i : Fin 17) (a : Nat), r = .registerSlot i ∧ s.reg i = .addr a ∧ f = .tagFault i) ∨
      (∃ c, r = .memoryCell c ∧ s.cfg.memCells ≤ c ∧ f = .operandRange pos c) := by
  cases r with
  | absent => simp [rd, eq_comm]
  | registerSlot i =>
    unfold rd
    by_cases h : i < 17
    · have h17 : ¬ 17 ≤ i := by omega
      cases hr : s.reg ⟨i, h⟩ with
      | int v =>
        simp only [h, dite_true, hr]
        constructor
        · intro hh
          cases hh
        · rintro (⟨hh, _⟩ | ⟨j, hj, hj17, _⟩ | ⟨j, a, hj, ha, _⟩ | ⟨c, hc, _⟩)
          · cases hh
          · cases hj
            omega
          · cases hj
            rw [show (⟨j.val, h⟩ : Fin 17) = j from rfl, ha] at hr
            cases hr
          · cases hc
      | addr a =>
        simp only [h, dite_true, hr]
        constructor
        · intro hh
          cases hh
          exact .inr (.inr (.inl ⟨⟨i, h⟩, a, rfl, hr, rfl⟩))
        · rintro (⟨hh, _⟩ | ⟨j, hj, hj17, _⟩ | ⟨j, b, hj, hb, hf⟩ | ⟨c, hc, _⟩)
          · cases hh
          · cases hj
            omega
          · cases hj
            rw [hf]
          · cases hc
    · have h17 : 17 ≤ i := by omega
      simp only [h, dite_false]
      constructor
      · intro hh
        cases hh
        exact .inr (.inl ⟨i, rfl, h17, rfl⟩)
      · rintro (⟨hh, _⟩ | ⟨j, hj, _, hf⟩ | ⟨j, b, hj, hb, hf⟩ | ⟨c, hc, _⟩)
        · cases hh
        · cases hj
          rw [hf]
        · cases hj
          exact absurd j.isLt h
        · cases hc
  | memoryCell c =>
    unfold rd
    by_cases h : c < s.cfg.memCells <;> simp [h, eq_comm]
    intro hh
    omega

/-- A read needs only the register file, the memory and the configuration. -/
theorem rd_congr {s t : State} (pos : Fin 2) (r : Ref) (hc : t.cfg.memCells = s.cfg.memCells)
    (hr : ∀ i, t.reg i = s.reg i) (hm : ∀ c, c < s.cfg.memCells → t.memRead c = s.memRead c) :
    rd pos r t = rd pos r s := by
  cases r with
  | absent => rfl
  | registerSlot i => simp only [rd, hr]
  | memoryCell c =>
    simp only [rd, hc]
    split
    · next h => rw [hm c h]
    · rfl

/-! Operand writes (spec/00_scope.md R12). -/

/-- A write answers exactly when its checks pass, with the unchecked write. -/
theorem wr_ok {pos : Fin 2} {r : Ref} {v : Word} {s t : State} :
    wr pos r v s = .ok t ↔ wrFault pos r s = none ∧ t = s.assign r v := by
  unfold wr
  cases wrFault pos r s <;> simp [eq_comm]

theorem wr_error {pos : Fin 2} {r : Ref} {v : Word} {s : State} {f : Fault} :
    wr pos r v s = .error f ↔ wrFault pos r s = some f := by
  unfold wr
  cases wrFault pos r s <;> simp

/-- A write's checks pass exactly on a valid reference (spec/30_encoding.md R81). -/
theorem wrFault_none {pos : Fin 2} {r : Ref} {s : State} :
    wrFault pos r s = none ↔ r.valid s.cfg.memCells = true := by
  cases r <;> simp [wrFault, Ref.valid]

theorem wrFault_some {pos : Fin 2} {r : Ref} {s : State} {f : Fault} :
    wrFault pos r s = some f ↔
      (r = .absent ∧ f = .malformedOperand pos) ∨
      (∃ i, r = .registerSlot i ∧ 17 ≤ i ∧ f = .operandRange pos i) ∨
      (∃ c, r = .memoryCell c ∧ s.cfg.memCells ≤ c ∧ f = .operandRange pos c) := by
  cases r <;> simp [wrFault, eq_comm]

/-- What can be read is a valid reference. -/
theorem valid_of_rd_ok {pos : Fin 2} {r : Ref} {s : State} {v : Word} (h : rd pos r s = .ok v) :
    r.valid s.cfg.memCells = true := by
  rcases rd_ok.mp h with ⟨i, rfl, _⟩ | ⟨c, rfl, hc, _⟩
  · simp [Ref.valid]
  · simp [Ref.valid, hc]

/-- What can be read can be written. -/
theorem wrFault_none_of_rd_ok {pos pos' : Fin 2} {r : Ref} {s : State} {v : Word} (h : rd pos r s = .ok v) :
    wrFault pos' r s = none :=
  wrFault_none.mpr (valid_of_rd_ok h)

@[simp] theorem State.assign_absent (s : State) (v : Word) : s.assign .absent v = s := rfl

@[simp] theorem State.assign_memoryCell (s : State) (c : Nat) (v : Word) :
    s.assign (.memoryCell c) v = s.memWrite c v := rfl

@[simp] theorem State.assign_registerSlot (s : State) (i : Fin 17) (v : Word) :
    s.assign (.registerSlot i) v = s.setReg i (.int v) := by
  simp [State.assign]

/-- Everything the unchecked write can do. -/
theorem State.assign_cases (s : State) (r : Ref) (v : Word) :
    s.assign r v = s ∨ (∃ i : Fin 17, r = .registerSlot i ∧ s.assign r v = s.setReg i (.int v)) ∨
    (∃ c, r = .memoryCell c ∧ s.assign r v = s.memWrite c v) := by
  cases r with
  | absent => exact .inl rfl
  | memoryCell c => exact .inr (.inr ⟨c, rfl, rfl⟩)
  | registerSlot i =>
    by_cases h : i < 17
    · exact .inr (.inl ⟨⟨i, h⟩, rfl, by simp [State.assign, h]⟩)
    · exact .inl (by simp [State.assign, h])

@[simp] theorem State.assign_cfg (s : State) (r : Ref) (v : Word) : (s.assign r v).cfg = s.cfg := by
  rcases s.assign_cases r v with h | ⟨i, _, h⟩ | ⟨c, _, h⟩ <;> simp [h]

@[simp] theorem State.assign_program (s : State) (r : Ref) (v : Word) : (s.assign r v).program = s.program := by
  rcases s.assign_cases r v with h | ⟨i, _, h⟩ | ⟨c, _, h⟩ <;> simp [h]

@[simp] theorem State.assign_flags (s : State) (r : Ref) (v : Word) : (s.assign r v).flags = s.flags := by
  rcases s.assign_cases r v with h | ⟨i, _, h⟩ | ⟨c, _, h⟩ <;> simp [h]

@[simp] theorem State.assign_rem (s : State) (r : Ref) (v : Word) : (s.assign r v).rem = s.rem := by
  rcases s.assign_cases r v with h | ⟨i, _, h⟩ | ⟨c, _, h⟩ <;> simp [h]

@[simp] theorem State.assign_out (s : State) (r : Ref) (v : Word) : (s.assign r v).out = s.out := by
  rcases s.assign_cases r v with h | ⟨i, _, h⟩ | ⟨c, _, h⟩ <;> simp [h]

@[simp] theorem State.assign_status (s : State) (r : Ref) (v : Word) : (s.assign r v).status = s.status := by
  rcases s.assign_cases r v with h | ⟨i, _, h⟩ | ⟨c, _, h⟩ <;> simp [h]

/-- A slot after the unchecked write. -/
theorem State.reg_assign (s : State) (r : Ref) (v : Word) (j : Fin 17) :
    (s.assign r v).reg j = if r = .registerSlot j then .int v else s.reg j := by
  cases r with
  | absent => simp
  | memoryCell c => simp
  | registerSlot i =>
    by_cases h : i < 17
    · rw [show s.assign (.registerSlot i) v = s.setReg ⟨i, h⟩ (.int v) by simp [State.assign, h], State.reg_setReg]
      simp [Fin.ext_iff]
    · have : i ≠ j.val := by omega
      simp [State.assign, h, this]

/-- A cell after the unchecked write. -/
theorem State.memRead_assign (s : State) (r : Ref) (v : Word) (d : Nat) :
    (s.assign r v).memRead d = if r = .memoryCell d then v else s.memRead d := by
  cases r with
  | absent => simp
  | memoryCell c => simp [State.memRead_memWrite, eq_comm]
  | registerSlot i =>
    by_cases h : i < 17 <;> simp [State.assign, h]

/-! The stack primitives (spec/42_stack.md R140, R141). -/

theorem pushWord_ok {v : Word} {s t : State} :
    pushWord v s = .ok t ↔
      ∃ a, s.sp = .addr a ∧ s.cfg.stackLimit < a ∧ t = (s.setSp (.addr (a - 1))).memWrite (a - 1) v := by
  unfold pushWord
  cases s.sp with
  | int w => simp
  | addr a =>
    by_cases h : a ≤ s.cfg.stackLimit
    · simp [h, show ¬ s.cfg.stackLimit < a by omega]
    · simp [h, show s.cfg.stackLimit < a by omega, eq_comm]

theorem pushWord_error {v : Word} {s : State} {f : Fault} :
    pushWord v s = .error f ↔
      (∃ w, s.sp = .int w ∧ f = .tagFault s.cfg.idxSp) ∨
      (∃ a, s.sp = .addr a ∧ a ≤ s.cfg.stackLimit ∧ f = .stackOverflow a) := by
  unfold pushWord
  cases s.sp with
  | int w => simp [eq_comm]
  | addr a => by_cases h : a ≤ s.cfg.stackLimit <;> simp [h, eq_comm]

theorem popRead_ok {s : State} {v : Word} :
    popRead s = .ok v ↔ ∃ a, s.sp = .addr a ∧ a < s.cfg.memCells ∧ v = s.memRead a := by
  unfold popRead
  cases s.sp with
  | int w => simp
  | addr a =>
    by_cases h : s.cfg.memCells ≤ a
    · simp [h, show ¬ a < s.cfg.memCells by omega]
    · simp [h, show a < s.cfg.memCells by omega, eq_comm]

theorem popRead_error {s : State} {f : Fault} :
    popRead s = .error f ↔
      (∃ w, s.sp = .int w ∧ f = .tagFault s.cfg.idxSp) ∨
      (∃ a, s.sp = .addr a ∧ s.cfg.memCells ≤ a ∧ f = .stackUnderflow a) := by
  unfold popRead
  cases s.sp with
  | int w => simp [eq_comm]
  | addr a => by_cases h : s.cfg.memCells ≤ a <;> simp [h, eq_comm]

theorem popAdvance_ok {s t : State} :
    popAdvance s = .ok t ↔ ∃ a, s.sp = .addr a ∧ t = s.setSp (.addr (a + 1)) := by
  unfold popAdvance
  cases s.sp <;> simp [eq_comm]

theorem popAdvance_error {s : State} {f : Fault} :
    popAdvance s = .error f ↔ ∃ w, s.sp = .int w ∧ f = .tagFault s.cfg.idxSp := by
  unfold popAdvance
  cases s.sp <;> simp [eq_comm]

theorem readIp_ok {s : State} {v : Word} : readIp s = .ok v ↔ s.ip = .int v := by
  unfold readIp
  cases s.ip <;> simp

theorem readIp_error {s : State} {f : Fault} :
    readIp s = .error f ↔ ∃ a, s.ip = .addr a ∧ f = .tagFault s.cfg.idxIp := by
  unfold readIp
  cases s.ip <;> simp [eq_comm]

/-! The body shapes. -/

theorem unaryBody_ok {g : Word → Word} {op0 : Ref} {s t : State} :
    unaryBody g op0 s = .ok t ↔ ∃ a, rd 0 op0 s = .ok a ∧ t = s.assign op0 (g a) := by
  simp only [unaryBody, except_bind_ok, wr_ok]
  constructor
  · rintro ⟨a, ha, _, ht⟩
    exact ⟨a, ha, ht⟩
  · rintro ⟨a, ha, ht⟩
    exact ⟨a, ha, wrFault_none_of_rd_ok ha, ht⟩

theorem binaryBody_ok {g : Word → Word → Except Fault Word} {op0 op1 : Ref} {s t : State} :
    binaryBody g op0 op1 s = .ok t ↔
      ∃ a b r, rd 0 op0 s = .ok a ∧ rd 1 op1 s = .ok b ∧ g a b = .ok r ∧ t = s.assign op0 r := by
  simp only [binaryBody, except_bind_ok, wr_ok]
  constructor
  · rintro ⟨a, ha, b, hb, r, hr, _, ht⟩
    exact ⟨a, b, r, ha, hb, hr, ht⟩
  · rintro ⟨a, b, r, ha, hb, hr, ht⟩
    exact ⟨a, ha, b, hb, r, hr, wrFault_none_of_rd_ok ha, ht⟩

theorem unaryBody_error {g : Word → Word} {op0 : Ref} {s : State} {f : Fault} :
    unaryBody g op0 s = .error f ↔ rd 0 op0 s = .error f := by
  simp only [unaryBody, except_bind_error, wr_error]
  constructor
  · rintro (h | ⟨a, ha, hw⟩)
    · exact h
    · rw [wrFault_none_of_rd_ok ha] at hw
      cases hw
  · exact .inl

theorem binaryBody_error {g : Word → Word → Except Fault Word} {op0 op1 : Ref} {s : State} {f : Fault} :
    binaryBody g op0 op1 s = .error f ↔
      rd 0 op0 s = .error f ∨
      (∃ a, rd 0 op0 s = .ok a ∧ rd 1 op1 s = .error f) ∨
      (∃ a b, rd 0 op0 s = .ok a ∧ rd 1 op1 s = .ok b ∧ g a b = .error f) := by
  simp only [binaryBody, except_bind_error, wr_error]
  constructor
  · rintro (h | ⟨a, ha, h | ⟨b, hb, h | ⟨r, _, hw⟩⟩⟩)
    · exact .inl h
    · exact .inr (.inl ⟨a, ha, h⟩)
    · exact .inr (.inr ⟨a, b, ha, hb, h⟩)
    · rw [wrFault_none_of_rd_ok ha] at hw
      cases hw
  · rintro (h | ⟨a, ha, h⟩ | ⟨a, b, ha, hb, h⟩)
    · exact .inl h
    · exact .inr ⟨a, ha, .inl h⟩
    · exact .inr ⟨a, ha, .inr ⟨b, hb, .inl h⟩⟩

/-- `pop` needs `sp` to hold an address after the destination is written: it does unless the destination is `sp`. -/
theorem popBody_ok {op0 : Ref} {s t : State} :
    popBody op0 s = .ok t ↔
      ∃ a, s.sp = .addr a ∧ a < s.cfg.memCells ∧ op0.valid s.cfg.memCells = true ∧ op0 ≠ .registerSlot s.cfg.idxSp ∧
        t = (s.assign op0 (s.memRead a)).setSp (.addr (a + 1)) := by
  simp only [popBody, except_bind_ok, popRead_ok, wr_ok, popAdvance_ok, wrFault_none]
  constructor
  · rintro ⟨v, ⟨a, ha, hlt, rfl⟩, t', ⟨hv, rfl⟩, b, hb, rfl⟩
    have hsp : (s.assign op0 (s.memRead a)).sp = if op0 = .registerSlot s.cfg.idxSp then .int (s.memRead a) else s.sp := by
      simp [State.sp, State.reg_assign]
    rw [hsp] at hb
    split at hb
    · cases hb
    · next hne =>
      rw [ha] at hb
      cases hb
      exact ⟨a, ha, hlt, hv, hne, rfl⟩
  · rintro ⟨a, ha, hlt, hv, hne, rfl⟩
    refine ⟨_, ⟨a, ha, hlt, rfl⟩, _, ⟨hv, rfl⟩, a, ?_, rfl⟩
    simp [State.sp, State.reg_assign, hne] at ha ⊢
    exact ha

theorem popBody_error {op0 : Ref} {s : State} {f : Fault} :
    popBody op0 s = .error f ↔
      popRead s = .error f ∨
      (∃ v, popRead s = .ok v ∧ wrFault 0 op0 s = some f) ∨
      (∃ v, popRead s = .ok v ∧ op0 = .registerSlot s.cfg.idxSp ∧ f = .tagFault s.cfg.idxSp) := by
  simp only [popBody, except_bind_error, wr_error, wr_ok, popAdvance_error]
  constructor
  · rintro (h | ⟨v, hv, h | ⟨t, ⟨hw, rfl⟩, w, hw', rfl⟩⟩)
    · exact .inl h
    · exact .inr (.inl ⟨v, hv, h⟩)
    · refine .inr (.inr ⟨v, hv, ?_, by simp⟩)
      obtain ⟨a, ha, _, _⟩ := popRead_ok.mp hv
      by_contra hne
      simp [State.sp, State.reg_assign, hne] at hw' ha
      rw [ha] at hw'
      cases hw'
  · rintro (h | ⟨v, hv, h⟩ | ⟨v, hv, rfl, rfl⟩)
    · exact .inl h
    · exact .inr ⟨v, hv, .inl h⟩
    · refine .inr ⟨v, hv, .inr ⟨_, ⟨wrFault_none.mpr (by simp [Ref.valid]), rfl⟩, v, ?_, by simp⟩⟩
      simp [State.sp]

theorem transfer_ok {op0 : Ref} {s t : State} :
    transfer op0 s = .ok t ↔ ∃ v, rd 0 op0 s = .ok v ∧ t = s.setPc (wrap32 (v.toInt - 1)) := by
  simp only [transfer, except_bind_ok]
  constructor <;> rintro ⟨v, hv, h⟩
  · cases h
    exact ⟨v, hv, rfl⟩
  · exact ⟨v, hv, by rw [h]⟩

theorem transfer_error {op0 : Ref} {s : State} {f : Fault} : transfer op0 s = .error f ↔ rd 0 op0 s = .error f := by
  simp [transfer, except_bind_error]

theorem jumpBody_ok {c : Bool} {op0 : Ref} {s t : State} :
    jumpBody c op0 s = .ok t ↔
      (c = true ∧ ∃ v, rd 0 op0 s = .ok v ∧ t = s.setPc (wrap32 (v.toInt - 1))) ∨ (c = false ∧ t = s) := by
  cases c
  · simp [jumpBody, @eq_comm _ t]
  · simp [jumpBody, transfer_ok]

theorem jumpBody_error {c : Bool} {op0 : Ref} {s : State} {f : Fault} :
    jumpBody c op0 s = .error f ↔ c = true ∧ rd 0 op0 s = .error f := by
  cases c <;> simp [jumpBody, transfer_error]

/-! The value functions that can raise. -/

theorem aluDiv_ok {a b r : Word} : aluDiv a b = .ok r ↔ b ≠ 0 ∧ r = wrap32 (tdiv a.toInt b.toInt) := by
  unfold aluDiv
  by_cases h : b = 0#32 <;> simp [h, @eq_comm _ r]

theorem aluMod_ok {a b r : Word} : aluMod a b = .ok r ↔ b ≠ 0 ∧ r = wrap32 (tmod a.toInt b.toInt) := by
  unfold aluMod
  by_cases h : b = 0#32 <;> simp [h, @eq_comm _ r]

theorem aluDiv_error {a b : Word} {f : Fault} : aluDiv a b = .error f ↔ b = 0 ∧ f = .divideByZero := by
  unfold aluDiv
  by_cases h : b = 0#32 <;> simp [h, @eq_comm _ f]

theorem aluMod_error {a b : Word} {f : Fault} : aluMod a b = .error f ↔ b = 0 ∧ f = .divideByZero := by
  unfold aluMod
  by_cases h : b = 0#32 <;> simp [h, @eq_comm _ f]

theorem shiftCount_ok {n : Word} {k : Nat} : shiftCount n = .ok k ↔ 0 ≤ n.toInt ∧ n.toInt ≤ 31 ∧ k = n.toNat := by
  unfold shiftCount
  split <;> simp_all [eq_comm]
  intros
  omega

theorem shiftCount_error {n : Word} {f : Fault} :
    shiftCount n = .error f ↔ (n.toInt < 0 ∨ 31 < n.toInt) ∧ f = .shiftRange n := by
  unfold shiftCount
  split <;> simp_all [eq_comm]

theorem aluShl_ok {a n r : Word} :
    aluShl a n = .ok r ↔ 0 ≤ n.toInt ∧ n.toInt ≤ 31 ∧ r = wrap32 (a.toInt * 2 ^ n.toNat) := by
  simp only [aluShl, except_bind_ok, shiftCount_ok]
  constructor
  · rintro ⟨k, ⟨h0, h1, rfl⟩, h⟩
    cases h
    exact ⟨h0, h1, rfl⟩
  · rintro ⟨h0, h1, rfl⟩
    exact ⟨_, ⟨h0, h1, rfl⟩, rfl⟩

theorem aluShr_ok {a n r : Word} :
    aluShr a n = .ok r ↔ 0 ≤ n.toInt ∧ n.toInt ≤ 31 ∧ r = wrap32 (a.toInt.fdiv (2 ^ n.toNat)) := by
  simp only [aluShr, except_bind_ok, shiftCount_ok]
  constructor
  · rintro ⟨k, ⟨h0, h1, rfl⟩, h⟩
    cases h
    exact ⟨h0, h1, rfl⟩
  · rintro ⟨h0, h1, rfl⟩
    exact ⟨_, ⟨h0, h1, rfl⟩, rfl⟩

theorem aluShl_error {a n : Word} {f : Fault} :
    aluShl a n = .error f ↔ (n.toInt < 0 ∨ 31 < n.toInt) ∧ f = .shiftRange n := by
  simp [aluShl, except_bind_error, shiftCount_error]

theorem aluShr_error {a n : Word} {f : Fault} :
    aluShr a n = .error f ↔ (n.toInt < 0 ∨ 31 < n.toInt) ∧ f = .shiftRange n := by
  simp [aluShr, except_bind_error, shiftCount_error]

end Sys2Proof.Machine
end

