-- ==== Sys2Proof/Laws/Body.lean ====
section
/-! SUPPORT. The body of every instruction as one function, with `exec` the completion of it: proofs about all instructions split
this once instead of unfolding each meaning. -/

namespace Sys2Proof.Machine

/-- The body of each instruction: the state it makes, or the fault it raises. -/
def bodyOf (i : Instr) (s : State) : Except Fault State :=
  match i with
  | .nop => .ok s
  | .int => .ok s
  | .mov op0 op1 => (rd 1 op1 s) >>= fun b => wr 0 op0 b s
  | .push op0 => (rd 0 op0 s) >>= fun v => pushWord v s
  | .pop op0 => popBody op0 s
  | .pushf => pushWord (zext s.flags) s
  | .popf op0 => popBody op0 s
  | .inc op0 => unaryBody aluInc op0 s
  | .dec op0 => unaryBody aluDec op0 s
  | .add op0 op1 => binaryBody (fun a b => .ok (aluAdd a b)) op0 op1 s
  | .sub op0 op1 => binaryBody (fun a b => .ok (aluSub a b)) op0 op1 s
  | .mul op0 op1 => binaryBody (fun a b => .ok (aluMul a b)) op0 op1 s
  | .div op0 op1 => binaryBody aluDiv op0 op1 s
  | .mod op0 op1 => (rd 0 op0 s) >>= fun a => (rd 1 op1 s) >>= fun b => (aluMod a b) >>= fun r => .ok (s.setRem r)
  | .rem op0 => wr 0 op0 s.rem s
  | .not op0 => unaryBody aluNot op0 s
  | .xor op0 op1 => binaryBody (fun a b => .ok (aluXor a b)) op0 op1 s
  | .or op0 op1 => binaryBody (fun a b => .ok (aluOr a b)) op0 op1 s
  | .and op0 op1 => binaryBody (fun a b => .ok (aluAnd a b)) op0 op1 s
  | .shl op0 op1 => binaryBody aluShl op0 op1 s
  | .shr op0 op1 => binaryBody aluShr op0 op1 s
  | .cmp op0 op1 => (rd 0 op0 s) >>= fun a => (rd 1 op1 s) >>= fun b => .ok (s.setFlags (compareFlags a b))
  | .jmp op0 => transfer op0 s
  | .call op0 => (readIp s) >>= fun i => (pushWord i s) >>= fun t => transfer op0 t
  | .ret => (popRead s) >>= fun v => popAdvance (s.setPc v)
  | .je op0 => jumpBody (condE s.flags) op0 s
  | .jne op0 => jumpBody (condNE s.flags) op0 s
  | .jg op0 => jumpBody (condG s.flags) op0 s
  | .jge op0 => jumpBody (condGE s.flags) op0 s
  | .jl op0 => jumpBody (condL s.flags) op0 s
  | .jle op0 => jumpBody (condLE s.flags) op0 s
  | .prn op0 => (rd 0 op0 s) >>= fun v => .ok (s.emit v)
  | .sentinel => .ok (s.setStatus .halted)

/-- `exec` completes the body: its state, or the fault taken on the state before it. -/
theorem exec_eq_complete (i : Instr) (s : State) : exec i s = complete s (bodyOf i s) := by
  cases i <;> rfl

/-- Everything a completion can answer. -/
theorem complete_next {s t : State} {r : Except Fault State} :
    complete s r = .next t ↔ r = .ok t ∨ ∃ f, r = .error f ∧ t = s.takeFault f := by
  cases r <;> simp [complete, eq_comm]

/-- Everything `exec` can answer: the body's state, or the fault taken on the state before it. -/
theorem exec_next {i : Instr} {s t : State} :
    exec i s = .next t ↔ bodyOf i s = .ok t ∨ ∃ f, bodyOf i s = .error f ∧ t = s.takeFault f := by
  rw [exec_eq_complete, complete_next]

theorem exec_of_ok {i : Instr} {s t : State} (h : bodyOf i s = .ok t) : exec i s = .next t :=
  exec_next.mpr (.inl h)

theorem exec_of_error {i : Instr} {s : State} {f : Fault} (h : bodyOf i s = .error f) :
    exec i s = .next (s.takeFault f) :=
  exec_next.mpr (.inr ⟨f, h, rfl⟩)

/-- The state `exec` answers. -/
def execState (i : Instr) (s : State) : State :=
  match bodyOf i s with
  | .ok t => t
  | .error f => s.takeFault f

theorem exec_eq_next (i : Instr) (s : State) : exec i s = .next (execState i s) := by
  rw [exec_eq_complete]
  unfold execState complete
  cases bodyOf i s <;> rfl

/-- Everything a completed body can have done to the state, by the shape of the instruction. -/
inductive BodyEffect (s : State) : Instr → State → Prop where
  /-- `nop`, `int`, a conditional jump that does not fire. -/
  | same {i : Instr} (hd : destOperand i = none) (hpush : pushes i = false) (hpop : pops i = false)
      (hs : i ≠ .sentinel) : BodyEffect s i s
  /-- A destination operand takes a value. -/
  | assign {i : Instr} {op0 : Ref} {v : Word} (hd : destOperand i = some op0) (hpop : pops i = false)
      (hv : op0.valid s.cfg.memCells = true) : BodyEffect s i (s.assign op0 v)
  /-- `push`, `pushf`. -/
  | push {i : Instr} {a : Nat} {v : Word} (hp : pushes i = true) (hw : writesIp i = false) (hsp : s.sp = .addr a)
      (hlim : s.cfg.stackLimit < a) : BodyEffect s i ((s.setSp (.addr (a - 1))).memWrite (a - 1) v)
  /-- `pop`, `popf`. -/
  | pop {i : Instr} {op0 : Ref} {a : Nat} (hd : destOperand i = some op0) (hp : pops i = true)
      (hsp : s.sp = .addr a) (hlt : a < s.cfg.memCells) (hv : op0.valid s.cfg.memCells = true)
      (hne : op0 ≠ .registerSlot s.cfg.idxSp) :
      BodyEffect s i ((s.assign op0 (s.memRead a)).setSp (.addr (a + 1)))
  /-- `mod`. -/
  | setRem {a b : Ref} {r : Word} : BodyEffect s (.mod a b) (s.setRem r)
  /-- `cmp`. -/
  | setFlags {a b : Ref} {x y : Word} : BodyEffect s (.cmp a b) (s.setFlags (compareFlags x y))
  /-- `prn`. -/
  | emit {a : Ref} {v : Word} : BodyEffect s (.prn a) (s.emit v)
  /-- `jmp`, a conditional jump that fires. -/
  | jump {i : Instr} {v : Word} (hw : writesIp i = true) (hpush : pushes i = false) (hpop : pops i = false) :
      BodyEffect s i (s.setPc v)
  /-- `call`. -/
  | call {op0 : Ref} {a : Nat} {i v : Word} (hip : s.ip = .int i) (hsp : s.sp = .addr a)
      (hlim : s.cfg.stackLimit < a) :
      BodyEffect s (.call op0) (((s.setSp (.addr (a - 1))).memWrite (a - 1) i).setPc v)
  /-- `ret`. -/
  | ret {a b : Nat} (hsp : s.sp = .addr a) (hlt : a < s.cfg.memCells) (hsp' : (s.setPc (s.memRead a)).sp = .addr b) :
      BodyEffect s .ret ((s.setPc (s.memRead a)).setSp (.addr (b + 1)))
  /-- The sentinel. -/
  | halt : BodyEffect s .sentinel (s.setStatus .halted)

theorem BodyEffect.of_jumpBody {c : Bool} {op0 : Ref} {s t : State} {i : Instr} (h : jumpBody c op0 s = .ok t)
    (hd : destOperand i = none) (hpush : pushes i = false) (hpop : pops i = false) (hs : i ≠ .sentinel)
    (hw : writesIp i = true) : BodyEffect s i t := by
  rcases jumpBody_ok.mp h with ⟨_, _, _, rfl⟩ | ⟨_, rfl⟩
  · exact .jump hw hpush hpop
  · exact .same hd hpush hpop hs

theorem BodyEffect.of_unaryBody {g : Word → Word} {op0 : Ref} {s t : State} {i : Instr}
    (h : unaryBody g op0 s = .ok t) (hd : destOperand i = some op0) (hpop : pops i = false) : BodyEffect s i t := by
  obtain ⟨a, ha, rfl⟩ := unaryBody_ok.mp h
  exact .assign hd hpop (valid_of_rd_ok ha)

theorem BodyEffect.of_binaryBody {g : Word → Word → Except Fault Word} {op0 op1 : Ref} {s t : State} {i : Instr}
    (h : binaryBody g op0 op1 s = .ok t) (hd : destOperand i = some op0) (hpop : pops i = false) :
    BodyEffect s i t := by
  obtain ⟨a, b, r, ha, _, _, rfl⟩ := binaryBody_ok.mp h
  exact .assign hd hpop (valid_of_rd_ok ha)

theorem BodyEffect.of_popBody {op0 : Ref} {s t : State} {i : Instr} (h : popBody op0 s = .ok t)
    (hd : destOperand i = some op0) (hpop : pops i = true) : BodyEffect s i t := by
  obtain ⟨a, ha, hlt, hv, hne, rfl⟩ := popBody_ok.mp h
  exact .pop hd hpop ha hlt hv hne

/-- A completed body has one of the effects of its instruction's shape. -/
theorem bodyOf_effect {i : Instr} {s t : State} (h : bodyOf i s = .ok t) : BodyEffect s i t := by
  cases i with
  | nop | int =>
    cases h
    exact .same rfl rfl rfl (by simp)
  | sentinel =>
    cases h
    exact .halt
  | mov a b =>
    obtain ⟨v, _, h⟩ := except_bind_ok.mp h
    obtain ⟨hw, rfl⟩ := wr_ok.mp h
    exact .assign rfl rfl (wrFault_none.mp hw)
  | rem a =>
    obtain ⟨hw, rfl⟩ := wr_ok.mp h
    exact .assign rfl rfl (wrFault_none.mp hw)
  | push a =>
    obtain ⟨v, _, h⟩ := except_bind_ok.mp h
    obtain ⟨a, ha, hl, rfl⟩ := pushWord_ok.mp h
    exact .push rfl rfl ha hl
  | pushf =>
    obtain ⟨a, ha, hl, rfl⟩ := pushWord_ok.mp h
    exact .push rfl rfl ha hl
  | pop a | popf a => exact .of_popBody h rfl rfl
  | inc a | dec a | not a => exact .of_unaryBody h rfl rfl
  | add a b | sub a b | mul a b | div a b | xor a b | or a b | and a b | shl a b | shr a b =>
    exact .of_binaryBody h rfl rfl
  | mod a b =>
    obtain ⟨x, _, h⟩ := except_bind_ok.mp h
    obtain ⟨y, _, h⟩ := except_bind_ok.mp h
    obtain ⟨r, _, h⟩ := except_bind_ok.mp h
    cases h
    exact .setRem
  | cmp a b =>
    obtain ⟨x, _, h⟩ := except_bind_ok.mp h
    obtain ⟨y, _, h⟩ := except_bind_ok.mp h
    cases h
    exact .setFlags
  | jmp a =>
    obtain ⟨v, _, rfl⟩ := transfer_ok.mp h
    exact .jump rfl rfl rfl
  | call a =>
    obtain ⟨k, hk, h⟩ := except_bind_ok.mp h
    obtain ⟨u, hu, h⟩ := except_bind_ok.mp h
    obtain ⟨b, hb, hl, rfl⟩ := pushWord_ok.mp hu
    obtain ⟨v, _, rfl⟩ := transfer_ok.mp h
    exact .call (readIp_ok.mp hk) hb hl
  | ret =>
    obtain ⟨v, hv, h⟩ := except_bind_ok.mp h
    obtain ⟨a, ha, hlt, rfl⟩ := popRead_ok.mp hv
    obtain ⟨b, hb, rfl⟩ := popAdvance_ok.mp h
    exact .ret ha hlt hb
  | je a | jne a | jg a | jge a | jl a | jle a => exact .of_jumpBody h rfl rfl rfl (by simp) rfl
  | prn a =>
    obtain ⟨v, _, h⟩ := except_bind_ok.mp h
    cases h
    exact .emit

end Sys2Proof.Machine
end

