-- ==== Sys2Proof/Laws/Decode.lean ====
section
/-! SUPPORT. The fields of packed words and reference fields, read back after they are written. -/

namespace Sys2Proof

/-- A bit of a packed word: `ref1`, then `ref0`, then the opcode (spec/30_encoding.md R86). -/
theorem getLsbD_packRecord (opc : Word) (f0 f1 : BitVec 32) (i : Nat) :
    (packRecord opc f0 f1).getLsbD i =
      if i < 32 then f1.getLsbD i else if i - 32 < 32 then f0.getLsbD (i - 32) else opc.getLsbD (i - 32 - 32) := by
  have h0 := BitVec.getLsbD_append (x := opc) (y := f0) (i := i - 32)
  have h := BitVec.getLsbD_append (x := opc ++ f0) (y := f1) (i := i)
  exact h.trans (by rw [h0])

@[simp] theorem opcodeField_packRecord (opc : Word) (f0 f1 : BitVec 32) : opcodeField (packRecord opc f0 f1) = opc := by
  apply BitVec.eq_of_getLsbD_eq
  intro i hi
  rw [opcodeField, BitVec.getLsbD_extractLsb', getLsbD_packRecord]
  simp [hi, show ¬ 64 + i < 32 by omega, show ¬ 64 + i - 32 < 32 by omega, show 64 + i - 32 - 32 = i by omega]

@[simp] theorem ref0Field_packRecord (opc : Word) (f0 f1 : BitVec 32) : ref0Field (packRecord opc f0 f1) = f0 := by
  apply BitVec.eq_of_getLsbD_eq
  intro i hi
  rw [ref0Field, BitVec.getLsbD_extractLsb', getLsbD_packRecord]
  simp [hi]

@[simp] theorem ref1Field_packRecord (opc : Word) (f0 f1 : BitVec 32) : ref1Field (packRecord opc f0 f1) = f1 := by
  apply BitVec.eq_of_getLsbD_eq
  intro i hi
  rw [ref1Field, BitVec.getLsbD_extractLsb', getLsbD_packRecord]
  simp [hi]

/-- A packed word is its three fields. -/
theorem packRecord_fields (w : PackedRecord) : packRecord (opcodeField w) (ref0Field w) (ref1Field w) = w := by
  apply BitVec.eq_of_getLsbD_eq
  intro i hi
  rw [getLsbD_packRecord]
  simp only [opcodeField, ref0Field, ref1Field, BitVec.getLsbD_extractLsb']
  split
  · next h => simp [h]
  · split
    · next h1 h2 => simp [h2, show 32 + (i - 32) = i by omega]
    · next h1 h2 => simp [show i - 32 - 32 < 32 by omega, show 64 + (i - 32 - 32) = i by omega]

/-- A bit of a reference field: the index, then the kind (spec/30_encoding.md R86). -/
theorem getLsbD_refField (k : BitVec 2) (x : BitVec 30) (i : Nat) :
    BitVec.getLsbD (w := 32) (k ++ x) i = if i < 30 then x.getLsbD i else k.getLsbD (i - 30) :=
  BitVec.getLsbD_append

theorem refKind_append (k : BitVec 2) (x : BitVec 30) : refKind (k ++ x) = k := by
  apply BitVec.eq_of_getLsbD_eq
  intro i hi
  rw [refKind, BitVec.getLsbD_extractLsb', getLsbD_refField]
  simp [hi]

theorem refIndex_append (k : BitVec 2) (x : BitVec 30) : refIndex (k ++ x) = x.toNat := by
  unfold refIndex
  congr 1
  apply BitVec.eq_of_getLsbD_eq
  intro i hi
  rw [BitVec.getLsbD_extractLsb', getLsbD_refField]
  simp [hi]

/-- A reference field that the record can hold is read back as it was written. -/
theorem decodeRef_encodeRef (pos : Fin 2) {r : Ref} (h : r.wf = true) : decodeRef pos (encodeRef r) = .ok r := by
  cases r with
  | absent => rfl
  | registerSlot i =>
    have hi : i < 2 ^ 30 := by simpa [Ref.wf] using h
    have hk : refKind (encodeRef (.registerSlot i)) = 0b01#2 := refKind_append ..
    have hx : refIndex (encodeRef (.registerSlot i)) = i := by
      rw [encodeRef, refIndex_append, BitVec.toNat_ofNat, Nat.mod_eq_of_lt hi]
    simp [decodeRef, hk, hx]
  | memoryCell c =>
    have hc : c < 2 ^ 30 := by simpa [Ref.wf] using h
    have hk : refKind (encodeRef (.memoryCell c)) = 0b10#2 := refKind_append ..
    have hx : refIndex (encodeRef (.memoryCell c)) = c := by
      rw [encodeRef, refIndex_append, BitVec.toNat_ofNat, Nat.mod_eq_of_lt hc]
    simp [decodeRef, hk, hx]

theorem refIndex_lt (f : BitVec 32) : refIndex f < 2 ^ 30 := (f.extractLsb' 0 30).isLt

/-- What a reference field is read as can be written back. -/
theorem wf_of_decodeRef {pos : Fin 2} {f : BitVec 32} {r : Ref} (h : decodeRef pos f = .ok r) : r.wf = true := by
  have hlt := refIndex_lt f
  unfold decodeRef at h
  split at h
  · split at h
    · cases h
      rfl
    · cases h
  · split at h
    · cases h
      simpa [Ref.wf] using hlt
    · split at h
      · cases h
        simpa [Ref.wf] using hlt
      · cases h

theorem refKind_append_refIndex (f : BitVec 32) : refKind f ++ BitVec.ofNat 30 (refIndex f) = f := by
  apply BitVec.eq_of_getLsbD_eq
  intro i hi
  rw [getLsbD_refField]
  simp only [refKind, refIndex, BitVec.ofNat_toNat, BitVec.setWidth_eq, BitVec.getLsbD_extractLsb']
  split
  · next h => simp [h]
  · next h => simp [show i - 30 < 2 by omega, show 30 + (i - 30) = i by omega]

/-- What a reference field is read as is written back as the field. -/
theorem encodeRef_of_decodeRef {pos : Fin 2} {f : BitVec 32} {r : Ref} (h : decodeRef pos f = .ok r) :
    encodeRef r = f := by
  have hf := refKind_append_refIndex f
  unfold decodeRef at h
  split at h
  · next hk =>
    split at h
    · next hx =>
      cases h
      rw [hk, hx] at hf
      rw [← hf]
      rfl
    · cases h
  · split at h
    · next hk =>
      cases h
      rw [hk] at hf
      exact hf
    · split at h
      · next hk =>
        cases h
        rw [hk] at hf
        exact hf
      · cases h

end Sys2Proof
end

