-- ==== Sys2Proof/Laws/PerInstr.lean ====
section
/-! SUPPORT. One lemma per constructor of `Instr`: the opcode table finds the instruction back from its opcode and the references of
its record, whatever stands in the positions beyond its arity (spec/30_encoding.md R82, R84). -/

namespace Sys2Proof.Laws

/-- An instruction other than the sentinel is selected by its own opcode from any record that holds its operands; the sentinel's
opcode selects no instruction. -/
def SelectsByOpcode.Statement (i : Sys2Proof.Instr) : Prop :=
  ∀ r0 r1 : Sys2Proof.Ref, (∀ a, i.operands[0]? = some a → r0 = a) → (∀ b, i.operands[1]? = some b → r1 = b) →
    Sys2Proof.selectInstr i.opcode r0 r1 = if i = .sentinel then none else some i

theorem SelectsByOpcode.nop :
    SelectsByOpcode.Statement (Sys2Proof.Instr.nop) := by
  intro r0 r1 h0 h1
  rfl

theorem SelectsByOpcode.int :
    SelectsByOpcode.Statement (Sys2Proof.Instr.int) := by
  intro r0 r1 h0 h1
  rfl

theorem SelectsByOpcode.mov (a0 a1 : Sys2Proof.Ref) :
    SelectsByOpcode.Statement (Sys2Proof.Instr.mov a0 a1) := by
  intro r0 r1 h0 h1
  obtain rfl := h0 a0 rfl
  obtain rfl := h1 a1 rfl
  rfl

theorem SelectsByOpcode.push (a0 : Sys2Proof.Ref) :
    SelectsByOpcode.Statement (Sys2Proof.Instr.push a0) := by
  intro r0 r1 h0 h1
  obtain rfl := h0 a0 rfl
  rfl

theorem SelectsByOpcode.pop (a0 : Sys2Proof.Ref) :
    SelectsByOpcode.Statement (Sys2Proof.Instr.pop a0) := by
  intro r0 r1 h0 h1
  obtain rfl := h0 a0 rfl
  rfl

theorem SelectsByOpcode.pushf :
    SelectsByOpcode.Statement (Sys2Proof.Instr.pushf) := by
  intro r0 r1 h0 h1
  rfl

theorem SelectsByOpcode.popf (a0 : Sys2Proof.Ref) :
    SelectsByOpcode.Statement (Sys2Proof.Instr.popf a0) := by
  intro r0 r1 h0 h1
  obtain rfl := h0 a0 rfl
  rfl

theorem SelectsByOpcode.inc (a0 : Sys2Proof.Ref) :
    SelectsByOpcode.Statement (Sys2Proof.Instr.inc a0) := by
  intro r0 r1 h0 h1
  obtain rfl := h0 a0 rfl
  rfl

theorem SelectsByOpcode.dec (a0 : Sys2Proof.Ref) :
    SelectsByOpcode.Statement (Sys2Proof.Instr.dec a0) := by
  intro r0 r1 h0 h1
  obtain rfl := h0 a0 rfl
  rfl

theorem SelectsByOpcode.add (a0 a1 : Sys2Proof.Ref) :
    SelectsByOpcode.Statement (Sys2Proof.Instr.add a0 a1) := by
  intro r0 r1 h0 h1
  obtain rfl := h0 a0 rfl
  obtain rfl := h1 a1 rfl
  rfl

theorem SelectsByOpcode.sub (a0 a1 : Sys2Proof.Ref) :
    SelectsByOpcode.Statement (Sys2Proof.Instr.sub a0 a1) := by
  intro r0 r1 h0 h1
  obtain rfl := h0 a0 rfl
  obtain rfl := h1 a1 rfl
  rfl

theorem SelectsByOpcode.mul (a0 a1 : Sys2Proof.Ref) :
    SelectsByOpcode.Statement (Sys2Proof.Instr.mul a0 a1) := by
  intro r0 r1 h0 h1
  obtain rfl := h0 a0 rfl
  obtain rfl := h1 a1 rfl
  rfl

theorem SelectsByOpcode.div (a0 a1 : Sys2Proof.Ref) :
    SelectsByOpcode.Statement (Sys2Proof.Instr.div a0 a1) := by
  intro r0 r1 h0 h1
  obtain rfl := h0 a0 rfl
  obtain rfl := h1 a1 rfl
  rfl

theorem SelectsByOpcode.mod (a0 a1 : Sys2Proof.Ref) :
    SelectsByOpcode.Statement (Sys2Proof.Instr.mod a0 a1) := by
  intro r0 r1 h0 h1
  obtain rfl := h0 a0 rfl
  obtain rfl := h1 a1 rfl
  rfl

theorem SelectsByOpcode.rem (a0 : Sys2Proof.Ref) :
    SelectsByOpcode.Statement (Sys2Proof.Instr.rem a0) := by
  intro r0 r1 h0 h1
  obtain rfl := h0 a0 rfl
  rfl

theorem SelectsByOpcode.not (a0 : Sys2Proof.Ref) :
    SelectsByOpcode.Statement (Sys2Proof.Instr.not a0) := by
  intro r0 r1 h0 h1
  obtain rfl := h0 a0 rfl
  rfl

theorem SelectsByOpcode.xor (a0 a1 : Sys2Proof.Ref) :
    SelectsByOpcode.Statement (Sys2Proof.Instr.xor a0 a1) := by
  intro r0 r1 h0 h1
  obtain rfl := h0 a0 rfl
  obtain rfl := h1 a1 rfl
  rfl

theorem SelectsByOpcode.or (a0 a1 : Sys2Proof.Ref) :
    SelectsByOpcode.Statement (Sys2Proof.Instr.or a0 a1) := by
  intro r0 r1 h0 h1
  obtain rfl := h0 a0 rfl
  obtain rfl := h1 a1 rfl
  rfl

theorem SelectsByOpcode.and (a0 a1 : Sys2Proof.Ref) :
    SelectsByOpcode.Statement (Sys2Proof.Instr.and a0 a1) := by
  intro r0 r1 h0 h1
  obtain rfl := h0 a0 rfl
  obtain rfl := h1 a1 rfl
  rfl

theorem SelectsByOpcode.shl (a0 a1 : Sys2Proof.Ref) :
    SelectsByOpcode.Statement (Sys2Proof.Instr.shl a0 a1) := by
  intro r0 r1 h0 h1
  obtain rfl := h0 a0 rfl
  obtain rfl := h1 a1 rfl
  rfl

theorem SelectsByOpcode.shr (a0 a1 : Sys2Proof.Ref) :
    SelectsByOpcode.Statement (Sys2Proof.Instr.shr a0 a1) := by
  intro r0 r1 h0 h1
  obtain rfl := h0 a0 rfl
  obtain rfl := h1 a1 rfl
  rfl

theorem SelectsByOpcode.cmp (a0 a1 : Sys2Proof.Ref) :
    SelectsByOpcode.Statement (Sys2Proof.Instr.cmp a0 a1) := by
  intro r0 r1 h0 h1
  obtain rfl := h0 a0 rfl
  obtain rfl := h1 a1 rfl
  rfl

theorem SelectsByOpcode.jmp (a0 : Sys2Proof.Ref) :
    SelectsByOpcode.Statement (Sys2Proof.Instr.jmp a0) := by
  intro r0 r1 h0 h1
  obtain rfl := h0 a0 rfl
  rfl

theorem SelectsByOpcode.call (a0 : Sys2Proof.Ref) :
    SelectsByOpcode.Statement (Sys2Proof.Instr.call a0) := by
  intro r0 r1 h0 h1
  obtain rfl := h0 a0 rfl
  rfl

theorem SelectsByOpcode.ret :
    SelectsByOpcode.Statement (Sys2Proof.Instr.ret) := by
  intro r0 r1 h0 h1
  rfl

theorem SelectsByOpcode.je (a0 : Sys2Proof.Ref) :
    SelectsByOpcode.Statement (Sys2Proof.Instr.je a0) := by
  intro r0 r1 h0 h1
  obtain rfl := h0 a0 rfl
  rfl

theorem SelectsByOpcode.jne (a0 : Sys2Proof.Ref) :
    SelectsByOpcode.Statement (Sys2Proof.Instr.jne a0) := by
  intro r0 r1 h0 h1
  obtain rfl := h0 a0 rfl
  rfl

theorem SelectsByOpcode.jg (a0 : Sys2Proof.Ref) :
    SelectsByOpcode.Statement (Sys2Proof.Instr.jg a0) := by
  intro r0 r1 h0 h1
  obtain rfl := h0 a0 rfl
  rfl

theorem SelectsByOpcode.jge (a0 : Sys2Proof.Ref) :
    SelectsByOpcode.Statement (Sys2Proof.Instr.jge a0) := by
  intro r0 r1 h0 h1
  obtain rfl := h0 a0 rfl
  rfl

theorem SelectsByOpcode.jl (a0 : Sys2Proof.Ref) :
    SelectsByOpcode.Statement (Sys2Proof.Instr.jl a0) := by
  intro r0 r1 h0 h1
  obtain rfl := h0 a0 rfl
  rfl

theorem SelectsByOpcode.jle (a0 : Sys2Proof.Ref) :
    SelectsByOpcode.Statement (Sys2Proof.Instr.jle a0) := by
  intro r0 r1 h0 h1
  obtain rfl := h0 a0 rfl
  rfl

theorem SelectsByOpcode.prn (a0 : Sys2Proof.Ref) :
    SelectsByOpcode.Statement (Sys2Proof.Instr.prn a0) := by
  intro r0 r1 h0 h1
  obtain rfl := h0 a0 rfl
  rfl

theorem SelectsByOpcode.sentinel :
    SelectsByOpcode.Statement (Sys2Proof.Instr.sentinel) := by
  intro r0 r1 h0 h1
  rfl

end Sys2Proof.Laws
end

