-- ==== Sys2Proof/Laws/Step.lean ====
section
/-! SUPPORT. What fetch, a cycle and a step can do, said once, and runs of several steps. -/

namespace Sys2Proof.Machine

/-- Everything the fetch of a record can answer (spec/40_execution_cycle.md R112). -/
theorem fetchRecord_ok {s : State} {w : PackedRecord} :
    fetchRecord s = .ok w ↔ ∃ v, s.ip = .int v ∧ 0 ≤ v.toInt ∧ s.program.code[v.toNat]? = some w := by
  simp only [fetchRecord, except_bind_ok, readIp_ok]
  constructor
  · rintro ⟨v, hv, h⟩
    split at h
    · cases h
    · next hn =>
      split at h
      · cases h
      · next w' hw =>
        cases h
        exact ⟨v, hv, by omega, hw⟩
  · rintro ⟨v, hv, h0, hw⟩
    exact ⟨v, hv, by simp [show ¬ v.toInt < 0 by omega, hw]⟩

theorem fetchRecord_error {s : State} {f : Fault} :
    fetchRecord s = .error f ↔
      (∃ a, s.ip = .addr a ∧ f = .tagFault s.cfg.idxIp) ∨
      (∃ v, s.ip = .int v ∧ (v.toInt < 0 ∨ s.program.code.length ≤ v.toNat) ∧ f = .fetchRange v) := by
  simp only [fetchRecord, except_bind_error, readIp_error, readIp_ok]
  constructor
  · rintro (h | ⟨v, hv, h⟩)
    · exact .inl h
    · refine .inr ⟨v, hv, ?_⟩
      split at h
      · next hn =>
        cases h
        exact ⟨.inl hn, rfl⟩
      · split at h
        · next hw =>
          cases h
          exact ⟨.inr (List.getElem?_eq_none_iff.mp hw), rfl⟩
        · cases h
  · rintro (h | ⟨v, hv, h, rfl⟩)
    · exact .inl h
    · refine .inr ⟨v, hv, ?_⟩
      by_cases hn : v.toInt < 0
      · simp [hn]
      · have hl : s.program.code.length ≤ v.toNat := by omega
        simp [hn, List.getElem?_eq_none_iff.mpr hl]

theorem fetch_ok {s : State} {i : Instr} : fetch s = .ok i ↔ ∃ w, fetchRecord s = .ok w ∧ decode w = .ok i := by
  simp only [fetch, except_bind_ok]
  constructor
  · rintro ⟨w, hw, h⟩
    refine ⟨w, hw, ?_⟩
    split at h
    · next j hj =>
      cases h
      exact hj
    · cases h
  · rintro ⟨w, hw, h⟩
    exact ⟨w, hw, by simp [h]⟩

theorem fetch_error {s : State} {f : Fault} :
    fetch s = .error f ↔
      fetchRecord s = .error f ∨
      ∃ w e, fetchRecord s = .ok w ∧ decode w = .error e ∧ f = .illegalOpcode (opcodeField w) := by
  simp only [fetch, except_bind_error]
  constructor
  · rintro (h | ⟨w, hw, h⟩)
    · exact .inl h
    · split at h
      · cases h
      · next e he =>
        cases h
        exact .inr ⟨w, e, hw, he, rfl⟩
  · rintro (h | ⟨w, e, hw, he, rfl⟩)
    · exact .inl h
    · exact .inr ⟨w, hw, by simp [he]⟩

/-- A cycle whose fetch answers runs the instruction and retires it. -/
theorem cycle_of_fetch_ok {s : State} {i : Instr} (h : fetch s = .ok i) : cycle s = retire (exec i s) := by
  simp [cycle, h]

theorem cycle_of_fetch_error {s : State} {f : Fault} (h : fetch s = .error f) : cycle s = .next (s.takeFault f) := by
  simp [cycle, h]

theorem step_of_running {s : State} (h : s.status = .running) : step s = cycle s := by
  simp [step, stepCore, h]

/-- Everything a step can do: only a Running core steps; it takes a fault of fetch, or the fetched instruction's fault, or makes the
body's state, advanced if the core still runs. -/
theorem step_next {s t : State} (h : step s = .next t) :
    s.status = .running ∧
    ((∃ f, fetch s = .error f ∧ t = s.takeFault f) ∨
     (∃ i f, fetch s = .ok i ∧ bodyOf i s = .error f ∧ t = s.takeFault f) ∨
     (∃ i u, fetch s = .ok i ∧ bodyOf i s = .ok u ∧ u.status = .running ∧ t = u.advance) ∨
     (∃ i u, fetch s = .ok i ∧ bodyOf i s = .ok u ∧ u.status ≠ .running ∧ t = u)) := by
  have hr : s.status = .running := by
    unfold step stepCore at h
    cases hs : s.status <;> simp_all
  refine ⟨hr, ?_⟩
  rw [step_of_running hr] at h
  cases hf : fetch s with
  | error f =>
    rw [cycle_of_fetch_error hf] at h
    cases h
    exact .inl ⟨f, rfl, rfl⟩
  | ok i =>
    rw [cycle_of_fetch_ok hf, exec_eq_complete] at h
    cases hb : bodyOf i s with
    | error f =>
      simp only [hb, complete, retire, State.takeFault_status, reduceCtorEq, if_false] at h
      cases h
      exact .inr (.inl ⟨i, f, rfl, hb, rfl⟩)
    | ok u =>
      simp only [hb, complete, retire] at h
      split at h
      · next hu =>
        cases h
        exact .inr (.inr (.inl ⟨i, u, rfl, hb, hu, rfl⟩))
      · next hu =>
        cases h
        exact .inr (.inr (.inr ⟨i, _, rfl, hb, hu, rfl⟩))

/-- A run of `k + 1` steps is one step and a run of `k` (spec/40_execution_cycle.md R111). -/
theorem run_succ {k : Nat} {s t : State} :
    Host.Core.run Sys2Proof.core (k + 1) s = .next t ↔
      ∃ u, step s = .next u ∧ Host.Core.run Sys2Proof.core k u = .next t := by
  have h := Host.Core.run.eq_2 Sys2Proof.core s k
  cases hs : step s with
  | next u =>
    rw [show Sys2Proof.core.step s = .next u from hs] at h
    constructor
    · intro hr
      exact ⟨u, rfl, h.symm.trans hr⟩
    · rintro ⟨v, hv, ht⟩
      cases hv
      exact h.trans ht
  | fault f =>
    rw [show Sys2Proof.core.step s = .fault f from hs] at h
    constructor
    · intro hr
      cases h.symm.trans hr
    · rintro ⟨v, hv, _⟩
      cases hv
  | refused r =>
    rw [show Sys2Proof.core.step s = .refused r from hs] at h
    constructor
    · intro hr
      cases h.symm.trans hr
    · rintro ⟨v, hv, _⟩
      cases hv

/-- The induction over runs, once: a relation that holds of no steps and is extended by one step in front holds of every run. -/
theorem run_induction {P : State → State → Prop} (hrefl : ∀ s, P s s)
    (hstep : ∀ s u t, step s = .next u → P u t → P s t) :
    ∀ {k : Nat} {s t : State}, Host.Core.run Sys2Proof.core k s = .next t → P s t := by
  intro k
  induction k with
  | zero =>
    intro s t h
    cases h
    exact hrefl s
  | succ k ih =>
    intro s t h
    obtain ⟨u, hu, ht⟩ := run_succ.mp h
    exact hstep s u t hu (ih ht)

/-- A body changes the status only for the sentinel. -/
theorem bodyOf_status {i : Instr} {s t : State} (h : bodyOf i s = .ok t) (hi : i ≠ .sentinel) :
    t.status = s.status := by
  cases bodyOf_effect h with
  | halt => exact absurd rfl hi
  | _ => simp

end Sys2Proof.Machine
end

