-- ==== Sys2Proof/Tests/Slice0.lean ====
section
/-! SUPPORT. The model's own tests: the well-formedness smoke, the decoding of words written out from the layout of
spec/30_encoding.md R86, one-step tests whose expected values are the vectors of spec/95_test_vectors.md (their numbers stand in the
comments), and for every obligation with hypotheses a witness that meets them. -/

namespace Sys2Proof.Tests

open Sys2Proof.Machine

/-! ## Helpers -/

/-- Slot `i` as an operand. -/
abbrev slot (i : Nat) : Ref := .registerSlot i

/-- Cell `c` as an operand. -/
abbrev cell (c : Nat) : Ref := .memoryCell c

abbrev r0 : Ref := slot 0
abbrev r1 : Ref := slot 1
abbrev spRef : Ref := slot 6
abbrev sbRef : Ref := slot 7
abbrev ipRef : Ref := slot 8

/-- The vectors' starting state: reset, with `pc` at index `n`. -/
def base (n : Nat) : State := State.reset.setPc (BitVec.ofNat 32 n)

/-- A Running core about to fetch `i`. -/
def about (i : Instr) (s : State) : State := s.withRecord (encode i)

/-- Reset with two general slots set. -/
def regs2 (a b : Word) : State := ((base 0).setReg 0 (.int a)).setReg 1 (.int b)

/-- The outcome is a next state with property `p`. -/
def answers (o : Host.Outcome State Fault Refusal) (p : State → Bool) : Bool :=
  match o with
  | .next t => p t
  | .fault _ => false
  | .refused _ => false

theorem exists_of_answers {o : Host.Outcome State Fault Refusal} {p : State → Bool} (h : answers o p = true) :
    ∃ t, o = .next t ∧ p t = true := by
  cases o with
  | next t => exact ⟨t, rfl, h⟩
  | fault f => cases h
  | refused r => cases h

/-- One step of `s` fetching `i` gives a next state with property `p`. -/
def after (i : Instr) (s : State) (p : State → Bool) : Bool := answers (step (about i s)) p

/-- One step of `s` fetching `i` takes the fault `f` and leaves everything else as it was. -/
def faults (i : Instr) (s : State) (f : Fault) : Bool :=
  after i s fun t => t == { about i s with status := .faulted f s.pc }

/-! ## Well-formedness: an ill-formed term is refused by each check -/

theorem test_ref_wf : (slot (2 ^ 30)).wf = false ∧ (cell (2 ^ 30)).wf = false ∧ (slot (2 ^ 30 - 1)).wf = true := by decide

theorem test_ref_valid :
    Ref.absent.valid 1024 = false ∧ (slot 17).valid 1024 = false ∧ (cell 1024).valid 1024 = false ∧
      (slot 16).valid 1024 = true ∧ (cell 1023).valid 1024 = true := by decide

theorem test_instr_wf : (Instr.mov r0 (cell (2 ^ 30))).wf = false ∧ (Instr.mov (slot (2 ^ 30)) r0).wf = false := by decide

theorem test_instr_valid :
    (Instr.mov r0 .absent).valid 1024 = false ∧ (Instr.prn (slot 17)).valid 1024 = false ∧
      (Instr.mov r0 (cell 1023)).valid 1024 = true := by decide

/-- A configuration by its numbers, in the default byte order. -/
def cfgOf (mem stack : Nat) (sp sb ip : Fin 17) : Config :=
  { memBytes := mem, stackBytes := stack, idxSp := sp, idxSb := sb, idxIp := ip, byteOrder := .little }

theorem test_config_wf :
    (∀ c ∈ [cfgOf 4098 256 6 7 8, cfgOf 0 0 6 7 8, cfgOf (2 ^ 32 + 4) 256 6 7 8, cfgOf 4096 255 6 7 8, cfgOf 4096 4100 6 7 8,
      cfgOf 4096 256 7 7 8, cfgOf 4096 256 6 7 6, cfgOf 4096 256 6 7 7], ¬c.wf) ∧
    ∀ c ∈ [cfgOf 4 0 0 1 16, cfgOf (2 ^ 32) (2 ^ 32) 6 7 8, Config.default], c.wf := by decide

theorem test_program_wf_records :
    recordOk Config.default 0x000000200000000000000000 = false ∧ recordOk Config.default 0x0000001F4000001100000000 = false ∧
    isSentinelRecord 0x000000000000000000000000 = false ∧ isSentinelRecord 0xFFFFFFFF0000000000000000 = true := by decide

theorem test_program_wf_length_and_start :
    ¬programWf Config.default { code := [], start := 0 } ∧
    ¬programWf Config.default { code := [encode .sentinel], start := 1 } ∧
    ¬programWf Config.default { code := [encode .sentinel], start := -1 } ∧
    ¬programWf Config.default { code := [encode .nop], start := 0 } := by
  refine ⟨fun h => absurd h.1 (by decide), fun h => absurd h.2.2.2.2.2 (by decide),
    fun h => absurd h.2.2.2.2.1 (by decide), fun h => ?_⟩
  obtain ⟨w, hw, hs⟩ := h.2.2.1
  cases hw
  exact absurd hs (by decide)

theorem test_slot_ok :
    slotOk Config.default 0 (.addr 1024) = false ∧ slotOk Config.default 8 (.addr 0) = false ∧
    slotOk Config.default 6 (.addr 959) = false ∧ slotOk Config.default 6 (.addr 960) = true ∧
    slotOk Config.default 6 (.addr 1025) = false ∧ slotOk Config.default 7 (.addr 1023) = false := by decide

theorem test_memory_wf : ¬Memory.wf [(3, 1), (3, 2)] ∧ ¬Memory.wf [(3, 0)] ∧ ¬Memory.wf [(4, 1), (3, 2)] ∧
    Memory.wf [(3, 1), (4, 2)] := by decide

/-! ## Decoding: one word per constructor, written out from the opcode table and the layout -/

theorem test_decode_misc_move :
    decode 0x000000000000000000000000 = .ok .nop ∧ decode 0x000000010000000000000000 = .ok .int ∧
    decode 0x000000028000006540000000 = .ok (.mov (cell 101) r0) := by decide

theorem test_decode_stack :
    decode 0x000000034000000100000000 = .ok (.push r1) ∧ decode 0x000000044000000100000000 = .ok (.pop r1) ∧
    decode 0x000000050000000000000000 = .ok .pushf ∧ decode 0x000000064000000300000000 = .ok (.popf (slot 3)) := by decide

theorem test_decode_arithmetic :
    decode 0x000000074000000100000000 = .ok (.inc r1) ∧ decode 0x000000088000000900000000 = .ok (.dec (cell 9)) ∧
    decode 0x000000094000000040000001 = .ok (.add r0 r1) ∧ decode 0x0000000A4000000080000007 = .ok (.sub r0 (cell 7)) ∧
    decode 0x0000000B4000001040000001 = .ok (.mul (slot 16) r1) ∧ decode 0x0000000C4000000040000001 = .ok (.div r0 r1) ∧
    decode 0x0000000D4000000040000001 = .ok (.mod r0 r1) ∧ decode 0x0000000E4000000100000000 = .ok (.rem r1) := by decide

theorem test_decode_logic_shift :
    decode 0x0000000F4000000000000000 = .ok (.not r0) ∧ decode 0x000000104000000040000001 = .ok (.xor r0 r1) ∧
    decode 0x000000114000000040000001 = .ok (.or r0 r1) ∧ decode 0x000000124000000040000001 = .ok (.and r0 r1) ∧
    decode 0x000000134000000080000003 = .ok (.shl r0 (cell 3)) ∧
    decode 0x00000014BFFFFFFF7FFFFFFF = .ok (.shr (cell (2 ^ 30 - 1)) (slot (2 ^ 30 - 1))) := by decide

theorem test_decode_compare : decode 0x000000154000000180000002 = .ok (.cmp r1 (cell 2)) := by decide

theorem test_decode_control :
    decode 0x000000168000000400000000 = .ok (.jmp (cell 4)) ∧ decode 0x000000178000000100000000 = .ok (.call (cell 1)) ∧
    decode 0x000000180000000000000000 = .ok .ret ∧ decode 0x000000198000000300000000 = .ok (.je (cell 3)) ∧
    decode 0x0000001A4000000000000000 = .ok (.jne r0) ∧ decode 0x0000001B4000000000000000 = .ok (.jg r0) ∧
    decode 0x0000001C4000000000000000 = .ok (.jge r0) ∧ decode 0x0000001D4000000000000000 = .ok (.jl r0) ∧
    decode 0x0000001E8000000300000000 = .ok (.jle (cell 3)) := by decide

theorem test_decode_output_and_sentinel :
    decode 0x0000001F8000006400000000 = .ok (.prn (cell 100)) ∧ decode 0xFFFFFFFF0000000000000000 = .ok .sentinel ∧
    decode 0xFFFFFFFF1234567800000000 = .ok .sentinel := by decide

theorem test_decode_invalid :
    decode 0x000000200000000000000000 = .error (.unknownOpcode 32) ∧
    decode 0xFFFFFFFE0000000000000000 = .error (.unknownOpcode (-2)) ∧
    decode 0x00000002C000000040000000 = .error (.reservedKind 0) ∧
    decode 0x000000000000000100000000 = .error (.absentWithIndex 0) ∧
    decode 0x0000000240000000C0000000 = .error (.reservedKind 1) := by decide

theorem test_decode_table_word :
    decodeTableWord 96 0x000000094000000040000001 = some (.add r0 r1) ∧
    decodeTableWord 96 0x000000200000000000000000 = none ∧
    decodeTableWord 104 0x01000000094000000040000001 = none := by decide

/-! ## One step (spec/95_test_vectors.md part 2) -/

-- M1, M2
theorem test_nop_int : after .nop (base 0) (fun t => t == (about .nop (base 0)).setPc 1) = true ∧
    after .int (base 0) (fun t => t == (about .int (base 0)).setPc 1) = true := by decide

-- M3, A44, K18: surplus operands are ignored.
theorem test_surplus_operands :
    answers (step ((base 0).withFetchWord 96 0x00000000400000638001869F)) (fun t => t.pc == 1) = true ∧
    answers (step ((regs2 1 0).withFetchWord 96 0x000000074000000040000006)) (fun t => t.reg 0 == .int 2) = true ∧
    answers (step ((base 0).withFetchWord 96 0x00000005400000638001869F)) (fun t => t.sp == .addr 1023) = true := by decide

-- M4, M5, M11, M9
theorem test_mov :
    after (.mov r0 (cell 0)) ((base 0).memWrite 0 5) (fun t => t.reg 0 == .int 5) = true ∧
    after (.mov (cell 7) r0) (regs2 (-9) 0) (fun t => t.memRead 7 == -9 && t.byteView 28 == 0xF7) = true ∧
    after (.mov spRef r0) (regs2 5 0) (fun t => t.sp == .int 5) = true := by decide

-- M8, M12, M13, M14
theorem test_mov_faults :
    faults (.mov r0 spRef) (base 0) (.tagFault 6) = true ∧ faults (.mov r0 (cell 1024)) (base 0) (.operandRange 1 1024) = true ∧
    faults (.mov (slot 17) r0) (base 0) (.operandRange 0 17) = true ∧ faults (.mov .absent spRef) (base 0) (.tagFault 6) = true := by
  decide

-- K1, K3, K8
theorem test_push :
    after (.push r0) (regs2 7 0) (fun t => t.sp == .addr 1023 && t.memRead 1023 == 7 && t.pc == 1) = true ∧
    after (.push r0) ((regs2 7 0).setSp (.addr 961)) (fun t => t.sp == .addr 960 && t.memRead 960 == 7) = true ∧
    after (.push (cell 1022)) ((((base 0).setSp (.addr 1023)).memWrite 1022 5).memWrite 1023 7)
      (fun t => t.sp == .addr 1022 && t.memRead 1022 == 5) = true := by decide

-- K4, K10, K11, K13
theorem test_push_faults :
    faults (.push r0) ((regs2 7 0).setSp (.addr 960)) (.stackOverflow 960) = true ∧
    faults (.push spRef) (base 0) (.tagFault 6) = true ∧ faults (.push sbRef) ((base 0).setSp (.addr 960)) (.tagFault 7) = true ∧
    faults (.push r0) ((base 0).setSp (.int 1000)) (.tagFault 6) = true := by decide

/-- The stack with one word on it. -/
def pushed (v : Word) (n : Nat) : State := ((base n).setSp (.addr 1023)).memWrite 1023 v

-- K2, K9, K17
theorem test_pop :
    after (.pop r1) (pushed 7 0) (fun t => t.reg 1 == .int 7 && t.sp == .addr 1024 && t.memRead 1023 == 7) = true ∧
    after (.pop (cell 1023)) (pushed 7 0) (fun t => t.memRead 1023 == 7 && t.sp == .addr 1024) = true ∧
    after (.pop ipRef) (pushed 2 6) (fun t => t.sp == .addr 1024 && t.pc == 3) = true := by decide

-- K5, K12, K14, K15
theorem test_pop_faults :
    faults (.pop r0) (base 0) (.stackUnderflow 1024) = true ∧ faults (.pop spRef) (pushed 44 0) (.tagFault 6) = true ∧
    faults (.pop .absent) (base 0) (.stackUnderflow 1024) = true ∧ faults (.pop .absent) (pushed 0 0) (.malformedOperand 0) = true := by
  decide

-- K6
theorem test_pushf : after .pushf ((base 0).setFlags 2)
    (fun t => t.sp == .addr 1023 && t.memRead 1023 == 2 && t.flags == 2) = true := by decide

-- K7
theorem test_popf : after (.popf (slot 3)) ((pushed 2 0).setFlags 1)
    (fun t => t.reg 3 == .int 2 && t.sp == .addr 1024 && t.flags == 1) = true := by decide

/-- The result in `r0` of an instruction on `r0` and `r1`. -/
def gives (i : Instr) (a b r : Word) : Bool := after i (regs2 a b) fun t => t.reg 0 == .int r && t.reg 1 == .int b && t.pc == 1

-- A35 to A39, A45
theorem test_inc_dec :
    gives (.inc r0) 41 0 42 = true ∧ gives (.inc r0) 2147483647 0 (-2147483648) = true ∧ gives (.inc r0) (-1) 0 0 = true ∧
    gives (.dec r0) (-2147483648) 0 2147483647 = true ∧
    after (.dec (cell 9)) (base 0) (fun t => t.memRead 9 == -1) = true ∧ faults (.inc spRef) (base 0) (.tagFault 6) = true := by
  decide

-- the same-operand row, A48
theorem test_add : gives (.add r0 r0) 7 0 14 = true ∧ gives (.add r0 r1) 5 3 8 = true ∧
    faults (.add (slot 17) spRef) (base 0) (.operandRange 0 17) = true := by decide

-- A7, A8
theorem test_sub : gives (.sub r0 r1) 0 (-2147483648) (-2147483648) = true ∧
    gives (.sub r0 r1) 2147483647 (-1) (-2147483648) = true ∧ gives (.sub r0 r0) 7 0 0 = true := by decide

-- A9 to A14
theorem test_mul :
    gives (.mul r0 r1) 6 (-7) (-42) = true ∧ gives (.mul r0 r1) 65536 65536 0 = true ∧
    gives (.mul r0 r1) 65536 32768 (-2147483648) = true ∧ gives (.mul r0 r1) (-2147483648) (-1) (-2147483648) = true ∧
    gives (.mul r0 r1) 2147483647 2147483647 1 = true ∧ gives (.mul r0 r1) 2147483647 2 (-2) = true := by decide

-- A16 to A23
theorem test_div :
    gives (.div r0 r1) 17 5 3 = true ∧ gives (.div r0 r1) (-7) 2 (-3) = true ∧ gives (.div r0 r1) 7 (-2) (-3) = true ∧
    gives (.div r0 r1) (-7) (-2) 3 = true ∧ gives (.div r0 r1) 2147483647 (-1) (-2147483647) = true ∧
    gives (.div r0 r1) (-2147483648) (-1) (-2147483648) = true := by decide

-- A24, A46, A47
theorem test_div_faults :
    faults (.div r0 r1) (regs2 1 0) .divideByZero = true ∧ faults (.div spRef r1) (base 0) (.tagFault 6) = true ∧
    faults (.div r0 .absent) (base 0) (.malformedOperand 1) = true := by decide

/-- `mod r0, r1` with `REM = 99` before. -/
def remainderIs (a b r : Word) : Bool :=
  after (.mod r0 r1) ((regs2 a b).setRem 99) fun t => t.rem == r && t.reg 0 == .int a && t.reg 1 == .int b

-- A26 to A34
theorem test_mod :
    remainderIs 17 5 2 = true ∧ remainderIs (-7) 2 (-1) = true ∧ remainderIs 7 (-2) 1 = true ∧
    remainderIs (-5) 7 (-5) = true ∧ remainderIs (-2147483648) (-1) 0 = true ∧
    faults (.mod r0 r1) ((regs2 3 0).setRem 99) .divideByZero = true := by decide

-- A40, A42, A43
theorem test_rem :
    after (.rem (slot 2)) ((base 0).setRem 2) (fun t => t.reg 2 == .int 2 && t.rem == 2) = true ∧
    after (.rem spRef) ((base 0).setRem 3) (fun t => t.sp == .int 3) = true ∧
    after (.rem ipRef) ((base 5).setRem 20) (fun t => t.pc == 21) = true := by decide

-- 2.4
theorem test_not : gives (.not r0) 0 0 (-1) = true ∧ gives (.not r0) 2147483647 0 (-2147483648) = true ∧
    gives (.not r0) 5 0 (-6) = true := by decide

-- L1 to L6
theorem test_xor_or_and :
    gives (.xor r0 r1) 12 10 6 = true ∧ gives (.or r0 r1) 12 10 14 = true ∧ gives (.and r0 r1) 12 10 8 = true ∧
    gives (.and r0 r1) (-2147483648) (-1) (-2147483648) = true ∧ gives (.xor r0 r1) 5 (-1) (-6) = true ∧
    gives (.or r0 r1) 5 (-1) (-1) = true := by decide

-- L7 to L13
theorem test_shl :
    gives (.shl r0 r1) 5 3 40 = true ∧ gives (.shl r0 r1) 7 0 7 = true ∧ gives (.shl r0 r1) 3 31 (-2147483648) = true ∧
    gives (.shl r0 r1) (-1) 1 (-2) = true ∧ gives (.shl r0 r1) (-2147483648) 1 0 = true ∧
    gives (.shl r0 r0) 7 0 896 = true := by decide

-- L16 to L22
theorem test_shr :
    gives (.shr r0 r1) 40 3 5 = true ∧ gives (.shr r0 r1) (-8) 1 (-4) = true ∧ gives (.shr r0 r1) (-7) 1 (-4) = true ∧
    gives (.shr r0 r1) (-2147483648) 31 (-1) = true ∧ gives (.shr r0 r1) 2147483647 30 1 = true := by decide

-- L14, L15, L23, L24
theorem test_shift_faults :
    faults (.shl r0 r1) (regs2 1 32) (.shiftRange 32) = true ∧ faults (.shl r0 r1) (regs2 1 (-1)) (.shiftRange (-1)) = true ∧
    faults (.shr r0 r1) (regs2 1 32) (.shiftRange 32) = true ∧ faults (.shr r0 r1) (regs2 (-1) (-1)) (.shiftRange (-1)) = true := by
  decide

/-- `cmp r0, r1` with `FLAGS = 1` before. -/
def flagsAre (a b : Word) (f : BitVec 2) : Bool :=
  after (.cmp r0 r1) ((regs2 a b).setFlags 1) fun t => t == ((about (.cmp r0 r1) (regs2 a b)).setFlags f).setPc 1

-- F1 to F7
theorem test_cmp :
    flagsAre 5 3 2 = true ∧ flagsAre 3 5 0 = true ∧ flagsAre 4 4 1 = true ∧ flagsAre (-1) 0 0 = true ∧
    flagsAre (-2147483648) 2147483647 0 = true ∧ flagsAre 2147483647 (-2147483648) 2 = true := by decide

-- J1, J2, J5, J3
theorem test_jmp :
    after (.jmp (cell 0)) ((base 3).memWrite 0 7) (fun t => t.pc == 7) = true ∧
    after (.jmp (cell 0)) (base 3) (fun t => t.pc == 0) = true ∧ after (.jmp ipRef) (base 5) (fun t => t.pc == 5) = true ∧
    after (.jmp (cell 0)) ((base 3).memWrite 0 (-2147483648)) (fun t => t.pc == -2147483648) = true := by decide

-- J7, J9
theorem test_call :
    after (.call (cell 0)) ((base 2).memWrite 0 10) (fun t => t.sp == .addr 1023 && t.memRead 1023 == 2 && t.pc == 10) = true ∧
    after (.call (cell 1023)) (base 2) (fun t => t.sp == .addr 1023 && t.memRead 1023 == 2 && t.pc == 2) = true := by decide

-- J10, J11
theorem test_call_faults :
    faults (.call (cell 0)) ((base 2).setSp (.addr 960)) (.stackOverflow 960) = true ∧
    faults (.call .absent) (base 2) (.malformedOperand 0) = true := by decide

-- J8, J12
theorem test_ret : after .ret (pushed 2 12) (fun t => t.sp == .addr 1024 && t.pc == 3) = true ∧
    faults .ret (base 0) (.stackUnderflow 1024) = true := by decide

/-- The index after a conditional jump at index 4 to 9 (table T1). -/
def nextIndex (i : Instr) (f : BitVec 2) (n : Word) : Bool :=
  after i (((base 4).memWrite 0 9).setFlags f) fun t => t.pc == n && t.flags == f

-- T1, row by row
theorem test_jumps_equal :
    nextIndex (.je (cell 0)) 1 9 = true ∧ nextIndex (.jne (cell 0)) 1 5 = true ∧ nextIndex (.jg (cell 0)) 1 5 = true ∧
    nextIndex (.jge (cell 0)) 1 9 = true ∧ nextIndex (.jl (cell 0)) 1 5 = true ∧ nextIndex (.jle (cell 0)) 1 9 = true := by decide

theorem test_jumps_greater :
    nextIndex (.je (cell 0)) 2 5 = true ∧ nextIndex (.jne (cell 0)) 2 9 = true ∧ nextIndex (.jg (cell 0)) 2 9 = true ∧
    nextIndex (.jge (cell 0)) 2 9 = true ∧ nextIndex (.jl (cell 0)) 2 5 = true ∧ nextIndex (.jle (cell 0)) 2 5 = true := by decide

theorem test_jumps_less :
    nextIndex (.je (cell 0)) 0 5 = true ∧ nextIndex (.jne (cell 0)) 0 9 = true ∧ nextIndex (.jg (cell 0)) 0 5 = true ∧
    nextIndex (.jge (cell 0)) 0 5 = true ∧ nextIndex (.jl (cell 0)) 0 9 = true ∧ nextIndex (.jle (cell 0)) 0 9 = true := by decide

theorem test_jumps_fourth_state :
    nextIndex (.je (cell 0)) 3 9 = true ∧ nextIndex (.jne (cell 0)) 3 5 = true ∧ nextIndex (.jg (cell 0)) 3 9 = true ∧
    nextIndex (.jge (cell 0)) 3 9 = true ∧ nextIndex (.jl (cell 0)) 3 5 = true ∧ nextIndex (.jle (cell 0)) 3 5 = true := by decide

-- J13, J14, J15
theorem test_jump_operand_read_only_when_taken :
    after (.je .absent) (base 3) (fun t => t.pc == 4) = true ∧
    faults (.je .absent) ((base 3).setFlags 1) (.malformedOperand 0) = true ∧
    faults (.je (cell 5000)) ((base 3).setFlags 1) (.operandRange 0 5000) = true := by decide

-- O1, O2, O3, O4
theorem test_prn :
    after (.prn r0) (regs2 8 0) (fun t => t.out == [8] && renderOut t == ['8', '\n']) = true ∧
    after (.prn (cell 0)) ((base 0).memWrite 0 (-2147483648))
      (fun t => renderOut t == ['-', '2', '1', '4', '7', '4', '8', '3', '6', '4', '8', '\n']) = true ∧
    after (.prn ipRef) (base 5) (fun t => t.out == [5]) = true ∧ faults (.prn sbRef) (base 0) (.tagFault 7) = true := by decide

-- E1, E2, E3, E4
theorem test_fetch :
    after .sentinel (base 0) (fun t => t == { about .sentinel (base 0) with status := .halted }) = true ∧
    answers (step ((about .nop (base 0)).setPc 1)) (fun t => t.status == .faulted (.fetchRange 1) 1) = true ∧
    answers (step ((base 0).withFetchWord 96 0x000000200000000000000000))
      (fun t => t.status == .faulted (.illegalOpcode 32) 0) = true ∧
    answers (step ((base 0).withFetchWord 96 0xFFFFFFFE0000000000000000))
      (fun t => t.status == .faulted (.illegalOpcode (-2)) 0) = true := by decide

-- spec/40_execution_cycle.md R116: the host's single step neither tests for the sentinel nor advances.
theorem test_host_step :
    answers (hostStep (about .sentinel (base 0))) (fun t => t.status == .faulted (.illegalOpcode (-1)) 0) = true ∧
    answers (hostStep (about (.inc r0) (base 3))) (fun t => t.reg 0 == .int 1 && t.pc == 3) = true := by decide

-- spec/20_memory.md R53: byte 4c is the low byte of cell c; spec/10_state.md R39: what nothing has written reads as 0.
theorem test_memory :
    ((base 0).memWrite 1 0x04030201).mem = [(4, 1), (5, 2), (6, 3), (7, 4)] ∧
    (((base 0).memWrite 1 0x04030201).memWrite 1 0x00030000).mem = [(6, 3)] ∧
    (((base 0).memWrite 1 5).memWrite 1 0).mem = [] ∧ (base 0).memRead 1023 = 0 := by decide

-- the big-endian byte view (log 5)
theorem test_memory_big_endian :
    Memory.writeCell .big [] 1 0x04030201 = [(4, 4), (5, 3), (6, 2), (7, 1)] ∧
    (Memory.writeCell .big [] 1 0x04030201).readCell .big 1 = 0x04030201 := by decide

-- spec/70_reset_and_hazards.md R282: launch values, the later write to a cell winning.
theorem test_launch :
    (State.launch Config.default { code := [encode .sentinel], start := 0 } [(0, 5), (3, 7), (3, 8)]).mem = [(0, 5), (12, 8)] := by
  decide

/-! ## Witnesses: for each obligation with hypotheses, states and operands that meet them, clause by clause -/

theorem witness_DecodeOfEncodeIsTheInstruction :
    (Instr.mov (cell (2 ^ 30 - 1)) (slot (2 ^ 30 - 1))).wf = true ∧ (Instr.prn .absent).wf = true ∧ Instr.ret.wf = true := by decide

theorem witness_DecodedInstructionIsTheWordsFields :
    decode 0x000000028000006540000000 = .ok (.mov (cell 101) r0) ∧ (Instr.mov (cell 101) r0).operands[0]? = some (cell 101) ∧
    (Instr.mov (cell 101) r0).operands[1]? = some r0 := by decide

theorem witness_DecodeRefusesExactlyTheInvalidWords :
    decode 0x000000000000000100000000 = .error (.absentWithIndex 0) ∧ decode 0xFFFFFFFFC000000040000000 = .ok .sentinel := by decide

-- Arity 1 with two different second fields, arity 2 and arity 0.
theorem witness_SurplusOperandsAreIgnored :
    (decode 0x000000074000000040000006 = .ok (.inc r0) ∧ decode 0x000000074000000000000000 = .ok (.inc r0) ∧
      opcodeField 0x000000074000000040000006 = opcodeField 0x000000074000000000000000 ∧
      ref0Field 0x000000074000000040000006 = ref0Field 0x000000074000000000000000 ∧ (Instr.inc r0).arity = 1) ∧
    (decode 0x000000024000000040000006 = .ok (.mov r0 spRef) ∧ (Instr.mov r0 spRef).arity = 2) ∧
    (decode 0x00000000400000638001869F = .ok .nop ∧ opcodeField 0x00000000400000638001869F = opcodeField 0) := by decide

theorem witness_OperandReadFollowsTheReference :
    (base 3).reg 0 = .int 0 ∧ (base 3).reg 16 = .int 0 ∧ (base 3).reg 6 = .addr 1024 ∧ (base 3).cfg.memCells = 1024 := by decide

theorem witness_OperandWriteIsReadBackAndChangesNothingElse :
    (∃ t, wr 0 (cell 1023) 9 (base 3) = .ok t ∧ t.reg 5 = .int 0 ∧ t.byteView 4091 = 0) ∧
    (∃ t, wr 1 (slot 16) 9 (base 3) = .ok t ∧ slot 16 ≠ slot 0) :=
  ⟨⟨(base 3).memWrite 1023 9, rfl, by decide, by decide⟩, ⟨(base 3).setReg 16 (.int 9), rfl, by decide⟩⟩

-- Byte 4091 lies just below cell 1023 and byte 4096 just above it.
theorem witness_CellsAreFourBytesOfTheBlock :
    (base 0).cfg.byteOrder = .little ∧ 1022 ≠ 1023 ∧ 4091 < 4 * 1023 ∧ 4 * 1023 + 4 ≤ 4096 := by decide

/-- Four cells, the first two written, seen through the given order. -/
def small (o : ByteOrder) (s : Status) : State :=
  (((State.create { cfgOf 16 8 6 7 8 with byteOrder := o }).memWrite 0 0x01020304).memWrite 1 7).withRecord (encode (.inc (cell 0)))
    |>.setStatus s

theorem witness_ByteOrderIsNotObservable :
    SameCells (small .little .running) (small .big .running) ∧ (small .little .running).mem ≠ (small .big .running).mem ∧
    (∃ t, step (small .little .running) = .next t ∧ (t.memRead 0 == 0x01020305) = true) ∧
    (SameCells (small .little (.faulted .divideByZero 0)) (small .big (.faulted .divideByZero 0)) ∧
      step (small .little (.faulted .divideByZero 0)) = .fault .divideByZero) ∧
    (SameCells (small .little .halted) (small .big .halted) ∧ step (small .little .halted) = .refused .notRunning) :=
  ⟨⟨rfl, by decide⟩, by decide, exists_of_answers (by decide), ⟨⟨rfl, by decide⟩, rfl⟩, ⟨⟨rfl, by decide⟩, rfl⟩⟩

theorem witness_FetchSeesOnlyTheProgramAndIp :
    (about (.prn r0) (regs2 1 2)).program = ((about (.prn r0) (regs2 1 2)).memWrite 0 9).program ∧
    (about (.prn r0) (regs2 1 2)).ip = ((about (.prn r0) (regs2 1 2)).memWrite 0 9).ip ∧
    ∃ t, step (about (.prn r0) (regs2 1 2)) = .next t ∧ (t.out == [1]) = true :=
  ⟨rfl, by decide, exists_of_answers (by decide)⟩

-- An instruction after which the core still runs, one that faults, and the sentinel.
theorem witness_StepRunsTheDecodedInstruction :
    ((about (.inc r0) (base 3)).status = .running ∧ (about (.inc r0) (base 3)).ip = .int 3 ∧ 0 ≤ (3 : Word).toInt ∧
      (about (.inc r0) (base 3)).program.code[3]? = some (encode (.inc r0)) ∧ decode (encode (.inc r0)) = .ok (.inc r0)) ∧
    answers (exec (.inc r0) (about (.inc r0) (base 3))) (fun t => t.status == .running) = true ∧
    answers (exec (.inc spRef) (about (.inc spRef) (base 3))) (fun t => t.status != .running) = true ∧
    answers (exec .sentinel (about .sentinel (base 3))) (fun t => t.status == .halted) = true := by decide

-- Index -1, the first index past the Program, and an invalid record inside it.
theorem witness_FetchFaultsAreTaken :
    ((about .nop (base 0)).setPc (-1)).ip = .int (-1) ∧ (-1 : Word).toInt < 0 ∧
    ((about .nop (base 0)).setPc 1).ip = .int 1 ∧ ((about .nop (base 0)).program.code.length : Int) ≤ (1 : Word).toInt ∧
    (about .nop (base 0)).status = .running ∧
    ((base 2).withRecord 0x000000200000000000000000).program.code[2]? = some 0x000000200000000000000000 ∧
    decode 0x000000200000000000000000 = .error (.unknownOpcode 32) := by decide

theorem witness_NotRunningTakesNoStep :
    State.reset.status = .halted ∧ ((base 0).takeFault .divideByZero).status = .faulted .divideByZero 0 := by decide

theorem one_le_limit : 1 ≤ 2 ^ 31 - 1 ∧ 2 ≤ 2 ^ 31 - 1 := by norm_num

theorem witness_SentinelRecordEndsTheRun :
    opcodeField 0xFFFFFFFF1234567800000000 = -1 ∧
    ((base 1).withRecord 0xFFFFFFFF1234567800000000).status = .running ∧
    ((base 1).withRecord 0xFFFFFFFF1234567800000000).ip = .int 1 ∧
    ((base 1).withRecord 0xFFFFFFFF1234567800000000).program.code[1]? = some 0xFFFFFFFF1234567800000000 ∧
    programWf Config.default { code := [0xFFFFFFFF1234567800000000], start := 0 } :=
  ⟨by decide, by decide, by decide, by decide, by decide, one_le_limit.1, ⟨_, rfl, by decide⟩,
    List.all_eq_true.mp (by decide), by decide, by decide⟩

theorem witness_IpAsAnOperandTransfersControl :
    (base 5).cfg.wf ∧ (about (.inc ipRef) (base 5)).status = .running ∧ (about (.inc ipRef) (base 5)).ip = .int 5 ∧
    Ref.registerSlot (base 5).cfg.idxIp = ipRef ∧
    (∀ i ∈ [Instr.mov ipRef r0, .inc ipRef, .dec ipRef, .add ipRef r0, .rem ipRef, .pop ipRef, .popf ipRef, .jmp ipRef,
        .call ipRef, .mov r0 ipRef, .mov ipRef ipRef, .push ipRef, .prn ipRef, .cmp ipRef r0, .sub ipRef r0, .mul ipRef r0,
        .xor ipRef r0, .or ipRef r0, .and ipRef r0, .not ipRef],
      fetch (about i (base 5)) = .ok i) ∧
    rd 1 r0 (about (.mov ipRef r0) (base 5)) = .ok 0 ∧
    (about (.pop ipRef) ((base 5).setSp (.addr 1023))).sp = .addr 1023 ∧ 1023 < (base 5).cfg.memCells ∧
    (base 5).sp = .addr 1024 ∧ (base 5).cfg.stackLimit < 1024 ∧ r0.valid (base 5).cfg.memCells = true ∧
    destOperand (.shr ipRef r0) = some ipRef ∧ fetch (about (.shr ipRef r0) (base 5)) = .ok (.shr ipRef r0) ∧
    answers (exec (.shr ipRef r0) (about (.shr ipRef r0) (base 5))) (fun u => u.status == .running && u.ip == .int 5) = true := by
  decide

-- A nonzero divisor and 0; the counts 0, 31, -1 and 32.
theorem witness_DivisionsAndShiftsIntoIpTransferControl :
    (∀ i ∈ [Instr.div ipRef r0, .shl ipRef r0, .shr ipRef r0],
      (about i (base 5)).status = .running ∧ (about i (base 5)).ip = .int 5 ∧ fetch (about i (base 5)) = .ok i) ∧
    Ref.registerSlot (base 5).cfg.idxIp = ipRef ∧ rd 1 r0 (base 5) = .ok 0 ∧
    (rd 1 r0 ((base 5).setReg 0 (.int 2)) = .ok 2 ∧ (2 : Word) ≠ 0) ∧
    (rd 1 r0 ((base 5).setReg 0 (.int 31)) = .ok 31 ∧ (31 : Word).toInt = 31) ∧
    (rd 1 r0 ((base 5).setReg 0 (.int (-1))) = .ok (-1) ∧ (-1 : Word).toInt < 0) ∧
    (rd 1 r0 ((base 5).setReg 0 (.int 32)) = .ok 32 ∧ 31 < (32 : Word).toInt) := by decide

theorem witness_AddressSlotsCannotBeReadAsIntegers :
    (base 0).reg 6 = .addr 1024 ∧ (base 0).reg 7 = .addr 1024 ∧ rd 0 r0 (base 0) = .ok 0 ∧
    (((base 0).setFlags 1).reg 7 = .addr 1024 ∧ ((base 0).setFlags 1).flags.getLsbD 0 = true) ∧
    (((base 0).setFlags 2).reg 7 = .addr 1024 ∧ ((base 0).setFlags 2).flags.getLsbD 1 = true) ∧
    ((base 0).flags.getLsbD 0 = false ∧ (base 0).flags.getLsbD 1 = false) ∧
    ((base 0).ip = .int 0 ∧ (base 0).sp = .addr 1024 ∧ (base 0).cfg.stackLimit < 1024) := by decide

theorem witness_NopAndIntHaveNoEffect :
    (about .nop (base 3)).status = .running ∧ fetch (about .nop (base 3)) = .ok .nop ∧ fetch (about .int (base 3)) = .ok .int := by
  decide

theorem witness_MovCopiesTheSource :
    (rd 1 r1 (regs2 5 6) = .ok 6 ∧ r0.valid (regs2 5 6).cfg.memCells = true ∧ (cell 1023).valid (regs2 5 6).cfg.memCells = true) ∧
    rd 1 spRef (base 0) = .error (.tagFault 6) ∧
    (wr 0 (slot 17) 6 (regs2 5 6)).toOption = none := by decide

-- The last push that fits, and the first that does not.
theorem witness_PushStoresBelowTheTop :
    (rd 0 r0 ((regs2 7 0).setSp (.addr 961)) = .ok 7 ∧ ((regs2 7 0).setSp (.addr 961)).sp = .addr 961 ∧
      (regs2 7 0).cfg.stackLimit < 961) ∧
    rd 0 spRef (base 0) = .error (.tagFault 6) ∧
    (rd 0 r0 ((regs2 7 0).setSp (.int 4)) = .ok 7 ∧ ((regs2 7 0).setSp (.int 4)).sp = .int 4) ∧
    (rd 0 r0 ((regs2 7 0).setSp (.addr 960)) = .ok 7 ∧ ((regs2 7 0).setSp (.addr 960)).sp = .addr 960 ∧
      960 ≤ (regs2 7 0).cfg.stackLimit) := by decide

theorem witness_PopAndPopfTakeTheTop :
    ((pushed 7 0).sp = .addr 1023 ∧ 1023 < (pushed 7 0).cfg.memCells ∧ r1.valid (pushed 7 0).cfg.memCells = true ∧
      r1 ≠ .registerSlot (pushed 7 0).cfg.idxSp ∧ spRef = .registerSlot (pushed 7 0).cfg.idxSp) ∧
    ((base 0).setSp (.int 4)).sp = .int 4 ∧ ((base 0).sp = .addr 1024 ∧ (base 0).cfg.memCells ≤ 1024) ∧
    (wr 0 .absent 7 (pushed 7 0)).toOption = none := by decide

theorem witness_PushfStoresTheFlags :
    (((base 0).setSp (.addr 961)).setFlags 2).sp = .addr 961 ∧ (base 0).cfg.stackLimit < 961 ∧
    ((base 0).setSp (.int 4)).sp = .int 4 ∧ ((base 0).setSp (.addr 960)).sp = .addr 960 ∧ 960 ≤ (base 0).cfg.stackLimit := by decide

theorem witness_PushThenPopGivesTheWordBack :
    (regs2 (-5) 0).sp = .addr 1024 ∧ (regs2 (-5) 0).cfg.stackLimit < 1024 ∧ 1024 ≤ (regs2 (-5) 0).cfg.memCells ∧
    rd 0 r0 (regs2 (-5) 0) = .ok (-5) ∧ r1.valid (regs2 (-5) 0).cfg.memCells = true ∧
    r1 ≠ .registerSlot (regs2 (-5) 0).cfg.idxSp ∧
    answers (exec (.push r0) (regs2 (-5) 0)) (fun t =>
      answers (exec (.pop r1) t) fun u => u.reg 1 == .int (-5) && u.sp == .addr 1024) = true := by decide

-- Exactly as many pushes as fit, and one cell to spare.
theorem witness_PushesNeverLeaveTheStackRegion :
    ((base 0).setSp (.addr 962)).sp = .addr 962 ∧ (base 0).cfg.stackLimit + [1, 2].length = 962 ∧
    (base 0).cfg.stackLimit + [1].length ≤ 962 ∧ 6 = (base 0).cfg.idxSp ∧ 0 ≠ (base 0).cfg.idxSp := by decide

theorem witness_StackDepthMovesByOne :
    ((regs2 7 0).setSp (.addr 961)).depth = some 63 ∧ (about (.push r0) ((regs2 7 0).setSp (.addr 961))).wf ∧
    answers (exec (.push r0) (about (.push r0) ((regs2 7 0).setSp (.addr 961))))
      (fun t => t.depth == some 64 && !t.status.isFaulted) = true ∧
    answers (exec (.pop r0) (about (.pop r0) (pushed 7 0))) (fun t => t.depth == some 0 && !t.status.isFaulted) = true ∧
    answers (exec (.mov r0 r1) (about (.mov r0 r1) (pushed 7 0))) (fun t => t.depth == some 1 && !t.status.isFaulted) = true ∧
    destOperand (.pop r0) ≠ some (.registerSlot (base 0).cfg.idxSp) := by decide

theorem witness_IncAndDecWrap : rd 0 r0 (regs2 2147483647 0) = .ok 2147483647 ∧ rd 0 spRef (base 0) = .error (.tagFault 6) := by decide

theorem witness_AddSubMulWrap :
    (rd 0 r0 (regs2 2147483647 (-1)) = .ok 2147483647 ∧ rd 1 r1 (regs2 2147483647 (-1)) = .ok (-1)) ∧
    rd 0 spRef (base 0) = .error (.tagFault 6) ∧ (rd 0 r0 (base 0) = .ok 0 ∧ rd 1 .absent (base 0) = .error (.malformedOperand 1)) := by
  decide

theorem witness_DivAndModTruncate :
    (rd 0 r0 (regs2 (-7) 2) = .ok (-7) ∧ rd 1 r1 (regs2 (-7) 2) = .ok 2 ∧ (2 : Word) ≠ 0) ∧
    (rd 0 r0 (regs2 1 0) = .ok 1 ∧ rd 1 r1 (regs2 1 0) = .ok 0) ∧
    rd 0 spRef (base 0) = .error (.tagFault 6) ∧ (rd 0 r0 (base 0) = .ok 0 ∧ rd 1 spRef (base 0) = .error (.tagFault 6)) := by decide

theorem witness_TruncatingDivisionIsExact :
    (2 : Int) ≠ 0 ∧ (-1 : Word) ≠ 0 ∧ (0x80000000 : Word).toInt = -2 ^ 31 ∧ (-1 : Word).toInt = -1 ∧ (7 : Word).toInt ≠ -2 ^ 31 := by
  decide

theorem witness_RemFetchesTheRemainder :
    (slot 16).valid (base 0).cfg.memCells = true ∧ (wr 0 (cell 1024) (base 0).rem (base 0)).toOption = none := by decide

theorem witness_LogicActsBitByBit :
    rd 0 r0 (regs2 12 10) = .ok 12 ∧ rd 1 r1 (regs2 12 10) = .ok 10 ∧ rd 0 spRef (base 0) = .error (.tagFault 6) ∧
    rd 1 spRef (regs2 12 10) = .error (.tagFault 6) := by decide

-- The counts 0, 31, -1 and 32.
theorem witness_ShiftsScaleByPowersOfTwo :
    (rd 0 r0 (regs2 (-7) 0) = .ok (-7) ∧ rd 1 r1 (regs2 (-7) 0) = .ok 0 ∧ (0 : Word).toInt = 0) ∧
    (rd 1 r1 (regs2 (-7) 31) = .ok 31 ∧ (31 : Word).toInt = 31) ∧
    (rd 1 r1 (regs2 (-7) (-1)) = .ok (-1) ∧ (-1 : Word).toInt < 0) ∧
    (rd 1 r1 (regs2 (-7) 32) = .ok 32 ∧ 31 < (32 : Word).toInt) ∧
    rd 0 spRef (base 0) = .error (.tagFault 6) ∧ rd 1 spRef (regs2 1 1) = .error (.tagFault 6) := by decide

theorem witness_CmpSetsEqualAndGreater :
    rd 0 r0 (regs2 5 3) = .ok 5 ∧ rd 1 r1 (regs2 5 3) = .ok 3 ∧ rd 0 spRef (base 0) = .error (.tagFault 6) ∧
    rd 1 sbRef (regs2 5 3) = .error (.tagFault 7) := by decide

theorem witness_JmpStoresTheTargetMinusOne :
    ((about (.jmp r0) (regs2 9 0)).status = .running ∧ fetch (about (.jmp r0) (regs2 9 0)) = .ok (.jmp r0) ∧
      rd 0 r0 (about (.jmp r0) (regs2 9 0)) = .ok 9) ∧
    rd 0 r0 (regs2 (-2147483648) 0) = .ok (-2147483648) ∧ rd 0 .absent (base 0) = .error (.malformedOperand 0) := by decide

-- Target 9 for each transfer, with flags that fire it.
theorem witness_TransfersLandExactlyOnTheTarget :
    (∀ i ∈ [Instr.jmp r0, .je r0, .jne r0, .jg r0, .jge r0, .jl r0, .jle r0, .call r0],
      (about i (regs2 9 0)).status = .running ∧ fetch (about i (regs2 9 0)) = .ok i ∧ rd 0 r0 (about i (regs2 9 0)) = .ok 9) ∧
    ((regs2 9 0).setFlags 1).flags.getLsbD 0 = true ∧ ((regs2 9 0).setFlags 2).flags.getLsbD 1 = true ∧
    (regs2 9 0).flags.getLsbD 0 = false ∧ (regs2 9 0).flags.getLsbD 1 = false ∧
    (regs2 9 0).ip = .int 0 ∧ (regs2 9 0).sp = .addr 1024 ∧ (regs2 9 0).cfg.stackLimit < 1024 ∧
    rd 0 r0 (((regs2 9 0).setSp (.addr 1023)).memWrite 1023 0) = .ok 9 := by decide

theorem witness_CallPushesItsIndexThenTransfers :
    ((regs2 9 0).ip = .int 0 ∧ (regs2 9 0).sp = .addr 1024 ∧ (regs2 9 0).cfg.stackLimit < 1024) ∧
    rd 0 r0 (((regs2 9 0).setSp (.addr 1023)).memWrite 1023 0) = .ok 9 ∧
    rd 0 .absent (((regs2 9 0).setSp (.addr 1023)).memWrite 1023 0) = .error (.malformedOperand 0) ∧
    (((base 2).setSp (.int 4)).ip = .int 2 ∧ ((base 2).setSp (.int 4)).sp = .int 4) ∧
    (((base 2).setSp (.addr 960)).ip = .int 2 ∧ ((base 2).setSp (.addr 960)).sp = .addr 960 ∧ 960 ≤ (base 2).cfg.stackLimit) := by
  decide

-- Each condition fired and not fired, with a readable operand and with one that faults.
theorem witness_ConditionalJumpsTestTheFlags :
    ((base 0).setFlags 1).flags.getLsbD 0 = true ∧ ((base 0).setFlags 1).flags.getLsbD 1 = false ∧
    ((base 0).setFlags 2).flags.getLsbD 0 = false ∧ ((base 0).setFlags 2).flags.getLsbD 1 = true ∧
    ((base 0).setFlags 0).flags.getLsbD 0 = false ∧ ((base 0).setFlags 0).flags.getLsbD 1 = false ∧
    (∀ f ∈ [(0 : BitVec 2), 1, 2, 3], rd 0 r0 ((base 0).setFlags f) = .ok 0 ∧
      rd 0 .absent ((base 0).setFlags f) = .error (.malformedOperand 0)) := by decide

theorem witness_JumpsAfterCmpFollowTheRelation :
    (rd 0 r0 (regs2 5 3) = .ok 5 ∧ rd 1 r1 (regs2 5 3) = .ok 3 ∧ rd 0 ipRef (regs2 5 3) = .ok 0) ∧
    (rd 0 r0 (regs2 3 5) = .ok 3 ∧ rd 1 r1 (regs2 3 5) = .ok 5 ∧ rd 0 ipRef (regs2 3 5) = .ok 0) ∧
    (rd 0 r0 (regs2 4 4) = .ok 4 ∧ rd 1 r1 (regs2 4 4) = .ok 4 ∧ rd 0 ipRef (regs2 4 4) = .ok 0) ∧
    (rd 0 r0 (regs2 (-2147483648) 2147483647) = .ok (-2147483648) ∧ rd 1 r1 (regs2 (-2147483648) 2147483647) = .ok 2147483647 ∧
      rd 0 ipRef (regs2 (-2147483648) 2147483647) = .ok 0) := by decide

theorem witness_RetTakesTheReturnIndex :
    ((pushed 2 12).sp = .addr 1023 ∧ 1023 < (pushed 2 12).cfg.memCells ∧ (pushed 2 12).cfg.idxSp ≠ (pushed 2 12).cfg.idxIp) ∧
    ((base 0).setSp (.int 4)).sp = .int 4 ∧ ((base 0).sp = .addr 1024 ∧ (base 0).cfg.memCells ≤ 1024) := by decide

/-- A Program with `call` at index 2 and `ret` at index 6. -/
def callRet : State :=
  { (regs2 6 0).setPc 2 with
    program := { code := [encode .nop, encode .nop, encode (.call r0), encode .nop, encode .nop, encode .nop, encode .ret, encode .sentinel]
                 start := 0 }
    status := .running }

theorem witness_RetResumesAfterTheCall :
    callRet.wf ∧ callRet.ip = .int 2 ∧ callRet.sp = .addr 1024 ∧ fetch callRet = .ok (.call r0) ∧
    (∃ u, exec (.call r0) callRet = .next u ∧ (u.status == .running && (fetch u.advance == .ok .ret) && u.advance.sp == u.sp &&
      u.advance.status == .running && u.advance.memRead 1023 == u.memRead 1023 && u.advance.cfg == u.cfg &&
      u.advance.program == u.program) = true) :=
  ⟨by decide, by decide, by decide, by decide, exists_of_answers (by decide)⟩

theorem witness_PrnAppendsToTheOutput :
    rd 0 r0 (regs2 8 0) = .ok 8 ∧ rd 0 sbRef (base 0) = .error (.tagFault 7) := by decide

-- A fault of fetch and a fault of an instruction.
theorem witness_FaultsArePreciseAndTerminal :
    (∃ t, step ((about .nop (base 0)).setPc 1) = .next t ∧ (t.status == .faulted (.fetchRange 1) 1) = true) ∧
    ∃ t, step (about (.div r0 r1) (regs2 7 0)) = .next t ∧ (t.status == .faulted .divideByZero 0) = true :=
  ⟨exists_of_answers (by decide), exists_of_answers (by decide)⟩

theorem witness_InstructionsRaiseOnlyTheirFaults :
    (about (.shl r0 r1) (regs2 1 32)).status = .running ∧
    ∃ t, exec (.shl r0 r1) (about (.shl r0 r1) (regs2 1 32)) = .next t ∧ (t.status == .faulted (.shiftRange 32) 0) = true :=
  ⟨by decide, exists_of_answers (by decide)⟩

/-- A well-formed Program that divides by zero at once. -/
def divides : State := about (.div r0 r1) ((regs2 7 0).load { code := [encode .nop, encode .sentinel], start := 0 })

theorem witness_WellFormedProgramsRaiseNoOperandFaults :
    divides.wf ∧ programWf divides.cfg divides.program ∧ divides.status = .running ∧
    ∃ t, Host.Core.run Sys2Proof.core 1 divides = .next t ∧ (t.status == .faulted .divideByZero 0) = true := by
  refine ⟨by decide, ⟨by decide, one_le_limit.2, ⟨encode .sentinel, rfl, by decide⟩, List.all_eq_true.mp (by decide), by decide,
    by decide⟩, by decide, ?_⟩
  obtain ⟨t, ht, hp⟩ := exists_of_answers (o := step divides) (p := fun t => t.status == .faulted .divideByZero 0) (by decide)
  exact ⟨t, run_succ.mpr ⟨t, ht, rfl⟩, hp⟩

-- The smallest and the largest block, and reserved indices other than the defaults.
theorem witness_CreationIsWellFormed :
    (cfgOf 4 0 0 1 16).wf ∧ (cfgOf (2 ^ 32) (2 ^ 32) 6 7 8).wf ∧ (State.create (cfgOf 4 0 0 1 16)).sp = .addr 1 := by decide

theorem witness_CreationLeavesTheResetValues :
    (0 : Fin 17) ≠ Config.default.idxSp ∧ (0 : Fin 17) ≠ Config.default.idxSb ∧ Config.default.memCells = 1024 := by decide

theorem witness_LaunchIsWellFormed :
    Config.default.wf ∧ (∀ cv ∈ [(0, (5 : Word)), (1023, -1)], cv.1 < Config.default.memCells) ∧
    (5 : Fin 17) ≠ (base 0).cfg.idxIp := by decide

-- The first and the last cell of the block, and cell 3 written twice.
theorem witness_LaunchStateIsTheResetStateWithItsCells :
    Config.default.wf ∧ (∀ cv ∈ [(0, (5 : Word)), (3, 7), (1023, -1), (3, 8)], cv.1 < Config.default.memCells) ∧
    [(0, (5 : Word)), (3, 7), (1023, -1), (3, 8)] = [(0, 5), (3, 7), (1023, -1)] ++ (3, 8) :: [] ∧
    [(0, (5 : Word)), (3, 7), (1023, -1), (3, 8)] = [] ++ (0, 5) :: [(3, 7), (1023, -1), (3, 8)] ∧
    (∀ cv ∈ [(3, (7 : Word)), (1023, -1), (3, 8)], cv.1 ≠ 0) ∧
    (∀ cv ∈ [(0, (5 : Word)), (3, 7), (1023, -1), (3, 8)], cv.1 ≠ 4 ∧ (16 < 4 * cv.1 ∨ 4 * cv.1 + 4 ≤ 16)) ∧
    (5 : Fin 17) ≠ Config.default.idxSp ∧ (5 : Fin 17) ≠ Config.default.idxSb ∧ (5 : Fin 17) ≠ Config.default.idxIp := by decide

theorem witness_EveryStepKeepsTheStateWellFormed :
    (about (.push r0) (regs2 7 0)).wf ∧
    ∃ t, step (about (.push r0) (regs2 7 0)) = .next t ∧ (t.sp == .addr 1023) = true :=
  ⟨by decide, exists_of_answers (by decide)⟩

theorem witness_InstructionsWriteOnlyTheirFootprint :
    (∃ t, exec (.push r0) (regs2 7 0) = .next t ∧ (t.memRead 1023 == 7) = true) ∧
    storedCell (.push r0) (regs2 7 0) = some 1023 ∧ mayWriteSlot (regs2 7 0).cfg (.push r0) 0 = false ∧
    mayWriteSlot (regs2 7 0).cfg (.push r0) 6 = true ∧ storedCell (.add (cell 9) r0) (regs2 7 0) = some 9 ∧
    storedCell (.cmp (cell 9) r0) (regs2 7 0) = none ∧ 4091 < 4 * 1023 :=
  ⟨exists_of_answers (by decide), by decide, by decide, by decide, by decide, by decide, by decide⟩

theorem witness_OnlyCmpModAndPrnWriteFlagsRemAndOut :
    (∃ t, step (about (.cmp r0 r1) (regs2 5 3)) = .next t ∧ (t.flags != (regs2 5 3).flags) = true) ∧
    (∃ t, step (about (.mod r0 r1) (regs2 5 3)) = .next t ∧ (t.rem != (regs2 5 3).rem) = true) ∧
    (∃ t, step (about (.prn r0) (regs2 5 3)) = .next t ∧ (t.out != (regs2 5 3).out) = true) ∧
    (∃ t, Host.Core.run Sys2Proof.core 1 (about (.prn r0) (regs2 5 3)) = .next t ∧ (t.out == [5]) = true) := by
  refine ⟨exists_of_answers (by decide), exists_of_answers (by decide), exists_of_answers (by decide), ?_⟩
  obtain ⟨t, ht, hp⟩ :=
    exists_of_answers (o := step (about (.prn r0) (regs2 5 3))) (p := fun t => t.out == [5]) (by decide)
  exact ⟨t, run_succ.mpr ⟨t, ht, rfl⟩, hp⟩

theorem witness_AddressesAreNeverMade :
    (about (.mov spRef r0) ((regs2 7 0).setSp (.int 4))).reg 6 = .int 4 ∧
    ∃ t, Host.Core.run Sys2Proof.core 1 (about (.mov spRef r0) ((regs2 7 0).setSp (.int 4))) = .next t ∧ (t.reg 6 == .int 7) = true := by
  refine ⟨by decide, ?_⟩
  obtain ⟨t, ht, hp⟩ := exists_of_answers (o := step (about (.mov spRef r0) ((regs2 7 0).setSp (.int 4))))
    (p := fun t => t.reg 6 == .int 7) (by decide)
  exact ⟨t, run_succ.mpr ⟨t, ht, rfl⟩, hp⟩

theorem witness_StackBaseIsNeverUsed :
    (about (.push r0) (regs2 7 0)).cfg.wf ∧ fetch (about (.push r0) (regs2 7 0)) = .ok (.push r0) ∧
    (∀ r ∈ (Instr.push r0).operands, r ≠ .registerSlot (regs2 7 0).cfg.idxSb) ∧
    ∃ t, step (about (.push r0) (regs2 7 0)) = .next t ∧ (t.sp == .addr 1023) = true :=
  ⟨by decide, by decide, by decide, exists_of_answers (by decide)⟩

theorem witness_HostStepIsTheBodyAlone :
    (fetch (about (.inc r0) (base 3)) = .ok (.inc r0) ∧ Instr.inc r0 ≠ .sentinel) ∧
    fetch (about .sentinel (base 3)) = .ok .sentinel ∧ fetch ((about .nop (base 0)).setPc (-1)) = .error (.fetchRange (-1)) := by decide

end Sys2Proof.Tests
end

