-- ==== Sys2Proof/Proofs/MiscMove.lean ====
section
/-! The statement about `nop` and `int` (spec/41_misc_move.md R130, R131). -/

namespace Sys2Proof.Machine

/-- A Running core whose fetched instruction, other than the sentinel, completes its body steps to the body's state with `pc`
advanced (spec/40_execution_cycle.md R113). -/
theorem step_of_bodyOf_ok {i : Instr} {s t : State} (hr : s.status = .running) (hf : fetch s = .ok i)
    (hi : i ≠ .sentinel) (hb : bodyOf i s = .ok t) : step s = .next t.advance := by
  have ht : t.status = .running := (bodyOf_status hb hi).trans hr
  rw [step_of_running hr, cycle_of_fetch_ok hf, exec_of_ok hb]
  simp only [retire, ht, if_true]

theorem bodyOf_nop (s : State) : bodyOf .nop s = .ok s := rfl

theorem bodyOf_int (s : State) : bodyOf .int s = .ok s := rfl

/-- Opcode 0 is `nop`, whatever stands in the record's operands (spec/30_encoding.md R82). -/
theorem selectInstr_zero (r0 r1 : Ref) : selectInstr 0 r0 r1 = some .nop :=
  Laws.SelectsByOpcode.nop r0 r1 (by simp [Instr.operands]) (by simp [Instr.operands])

/-- Opcode 1 is `int`, whatever stands in the record's operands (spec/30_encoding.md R82). -/
theorem selectInstr_one (r0 r1 : Ref) : selectInstr 1 r0 r1 = some .int :=
  Laws.SelectsByOpcode.int r0 r1 (by simp [Instr.operands]) (by simp [Instr.operands])

/-- Settles O18: both bodies answer the state they were given, so the cycle adds only the advance of `pc`. -/
theorem nopAndIntHaveNoEffect : Obligations.NopAndIntHaveNoEffect := by
  unfold Obligations.NopAndIntHaveNoEffect
  refine ⟨fun r0 r1 => ⟨selectInstr_zero r0 r1, selectInstr_one r0 r1⟩, fun s => ⟨?nop, ?int, ?step⟩⟩
  case nop => exact exec_of_ok (bodyOf_nop s)
  case int => exact exec_of_ok (bodyOf_int s)
  case step =>
    rintro hr (hf | hf)
    · exact step_of_bodyOf_ok hr hf (by simp) (bodyOf_nop s)
    · exact step_of_bodyOf_ok hr hf (by simp) (bodyOf_int s)

end Sys2Proof.Machine
end

/-! The statements about `inc`, `dec`, `add`, `sub` and `mul` (spec/43_arithmetic.md R160 to R164). What an instruction of one of the
two operand shapes answers is said once per shape, for any value function. -/

namespace Sys2Proof.Machine

/-! What an instruction answers whose body is `unaryBody`. -/

theorem exec_of_unaryBody_ok {i : Instr} {g : Word → Word} {op0 : Ref} {s : State} {a : Word}
    (hb : bodyOf i s = unaryBody g op0 s) (ha : rd 0 op0 s = .ok a) : exec i s = .next (s.assign op0 (g a)) :=
  exec_of_ok (hb.trans (unaryBody_ok.mpr ⟨a, ha, rfl⟩))

theorem exec_of_unaryBody_error {i : Instr} {g : Word → Word} {op0 : Ref} {s : State} {f : Fault}
    (hb : bodyOf i s = unaryBody g op0 s) (hf : rd 0 op0 s = .error f) : exec i s = .next (s.takeFault f) :=
  exec_of_error (hb.trans (unaryBody_error.mpr hf))

/-! What an instruction answers whose body is `binaryBody`: operand 1 is reached only when operand 0 was read (spec/00_scope.md
R12). -/

theorem exec_of_binaryBody_ok {i : Instr} {g : Word → Word → Except Fault Word} {op0 op1 : Ref} {s : State} {a b r : Word}
    (hb : bodyOf i s = binaryBody g op0 op1 s) (h0 : rd 0 op0 s = .ok a) (h1 : rd 1 op1 s = .ok b)
    (hr : g a b = .ok r) : exec i s = .next (s.assign op0 r) :=
  exec_of_ok (hb.trans (binaryBody_ok.mpr ⟨a, b, r, h0, h1, hr, rfl⟩))

theorem exec_of_binaryBody_error_left {i : Instr} {g : Word → Word → Except Fault Word} {op0 op1 : Ref} {s : State} {f : Fault}
    (hb : bodyOf i s = binaryBody g op0 op1 s) (h0 : rd 0 op0 s = .error f) : exec i s = .next (s.takeFault f) :=
  exec_of_error (hb.trans (binaryBody_error.mpr (.inl h0)))

theorem exec_of_binaryBody_error_right {i : Instr} {g : Word → Word → Except Fault Word} {op0 op1 : Ref} {s : State} {a : Word}
    {f : Fault} (hb : bodyOf i s = binaryBody g op0 op1 s) (h0 : rd 0 op0 s = .ok a) (h1 : rd 1 op1 s = .error f) :
    exec i s = .next (s.takeFault f) :=
  exec_of_error (hb.trans (binaryBody_error.mpr (.inr (.inl ⟨a, h0, h1⟩))))

/-! The body of each instruction, with the value it computes. -/

theorem bodyOf_inc (op0 : Ref) (s : State) :
    bodyOf (.inc op0) s = unaryBody (fun a => wrap32 (a.toInt + 1)) op0 s := rfl

theorem bodyOf_dec (op0 : Ref) (s : State) :
    bodyOf (.dec op0) s = unaryBody (fun a => wrap32 (a.toInt - 1)) op0 s := rfl

theorem bodyOf_add (op0 op1 : Ref) (s : State) :
    bodyOf (.add op0 op1) s = binaryBody (fun a b => .ok (wrap32 (a.toInt + b.toInt))) op0 op1 s := rfl

theorem bodyOf_sub (op0 op1 : Ref) (s : State) :
    bodyOf (.sub op0 op1) s = binaryBody (fun a b => .ok (wrap32 (a.toInt - b.toInt))) op0 op1 s := rfl

theorem bodyOf_mul (op0 op1 : Ref) (s : State) :
    bodyOf (.mul op0 op1) s = binaryBody (fun a b => .ok (wrap32 (a.toInt * b.toInt))) op0 op1 s := rfl

/-- Settles O26: both bodies are the unary shape, so the one read of operand 0 gives the value or the fault. -/
theorem incAndDecWrap : Obligations.IncAndDecWrap := by
  unfold Obligations.IncAndDecWrap
  refine fun s op0 => ⟨rfl, rfl, fun a ha => ⟨?inc, ?dec⟩, fun f hf => ⟨?incFault, ?decFault⟩⟩
  case inc => exact exec_of_unaryBody_ok (bodyOf_inc op0 s) ha
  case dec => exact exec_of_unaryBody_ok (bodyOf_dec op0 s) ha
  case incFault => exact exec_of_unaryBody_error (bodyOf_inc op0 s) hf
  case decFault => exact exec_of_unaryBody_error (bodyOf_dec op0 s) hf

/-- The three instructions of O27 share the binary shape; each has its own value function. -/
theorem bodyOf_eq_binaryBody_of_mem_add_sub_mul {i : Instr} {op0 op1 : Ref}
    (hi : i ∈ [Instr.add op0 op1, .sub op0 op1, .mul op0 op1]) (s : State) :
    ∃ g, bodyOf i s = binaryBody g op0 op1 s := by
  simp only [List.mem_cons, List.not_mem_nil, or_false] at hi
  obtain rfl | rfl | rfl := hi
  · exact ⟨_, bodyOf_add op0 op1 s⟩
  · exact ⟨_, bodyOf_sub op0 op1 s⟩
  · exact ⟨_, bodyOf_mul op0 op1 s⟩

/-- Settles O27: all three bodies are the binary shape, which reads operand 0, then operand 1, then writes the value. -/
theorem addSubMulWrap : Obligations.AddSubMulWrap := by
  unfold Obligations.AddSubMulWrap
  refine fun s op0 op1 => ⟨rfl, rfl, rfl, fun a b h0 h1 => ⟨?add, ?sub, ?mul⟩, fun i hi => ?faults⟩
  case add => exact exec_of_binaryBody_ok (bodyOf_add op0 op1 s) h0 h1 rfl
  case sub => exact exec_of_binaryBody_ok (bodyOf_sub op0 op1 s) h0 h1 rfl
  case mul => exact exec_of_binaryBody_ok (bodyOf_mul op0 op1 s) h0 h1 rfl
  case faults =>
    obtain ⟨g, hb⟩ := bodyOf_eq_binaryBody_of_mem_add_sub_mul hi s
    exact ⟨fun f => exec_of_binaryBody_error_left hb, fun a f => exec_of_binaryBody_error_right hb⟩

end Sys2Proof.Machine

/-! The statement about `not`, `xor`, `or` and `and` (spec/44_logic_shift.md R180 to R183). -/

namespace Sys2Proof.Machine

/-- The word `not` computes, read as a number (spec/44_logic_shift.md R180): complementing every bit is negating and taking one. -/
theorem aluNot_eq_wrap32 (a : Word) : aluNot a = wrap32 (-a.toInt - 1) :=
  calc aluNot a = -a - 1#32 := BitVec.not_eq_neg_add a
    _ = -a + -1#32 := BitVec.sub_eq_add_neg _ _
    _ = wrap32 (-a.toInt + -1) := by rw [wrap32, BitVec.ofInt_add, BitVec.ofInt_neg, BitVec.ofInt_toInt]; rfl
    _ = wrap32 (-a.toInt - 1) := by rw [Int.sub_eq_add_neg]

theorem getLsbD_aluXor (a b : Word) (k : Nat) : (aluXor a b).getLsbD k = (a.getLsbD k ^^ b.getLsbD k) :=
  BitVec.getLsbD_xor

theorem getLsbD_aluOr (a b : Word) (k : Nat) : (aluOr a b).getLsbD k = (a.getLsbD k || b.getLsbD k) :=
  BitVec.getLsbD_or

theorem getLsbD_aluAnd (a b : Word) (k : Nat) : (aluAnd a b).getLsbD k = (a.getLsbD k && b.getLsbD k) :=
  BitVec.getLsbD_and

/-! The body of each instruction, with the value function it runs. -/

theorem bodyOf_not (op0 : Ref) (s : State) : bodyOf (.not op0) s = unaryBody aluNot op0 s := rfl

theorem bodyOf_xor (op0 op1 : Ref) (s : State) :
    bodyOf (.xor op0 op1) s = binaryBody (fun a b => .ok (aluXor a b)) op0 op1 s := rfl

theorem bodyOf_or (op0 op1 : Ref) (s : State) :
    bodyOf (.or op0 op1) s = binaryBody (fun a b => .ok (aluOr a b)) op0 op1 s := rfl

theorem bodyOf_and (op0 op1 : Ref) (s : State) :
    bodyOf (.and op0 op1) s = binaryBody (fun a b => .ok (aluAnd a b)) op0 op1 s := rfl

/-- The three two-operand instructions of O31 share the binary shape; each has its own value function. -/
theorem bodyOf_eq_binaryBody_of_mem_xor_or_and {i : Instr} {op0 op1 : Ref}
    (hi : i ∈ [Instr.xor op0 op1, .or op0 op1, .and op0 op1]) (s : State) :
    ∃ g, bodyOf i s = binaryBody g op0 op1 s := by
  simp only [List.mem_cons, List.not_mem_nil, or_false] at hi
  obtain rfl | rfl | rfl := hi
  · exact ⟨_, bodyOf_xor op0 op1 s⟩
  · exact ⟨_, bodyOf_or op0 op1 s⟩
  · exact ⟨_, bodyOf_and op0 op1 s⟩

/-- Settles O31: `not` is the unary shape and the other three the binary one, so each answers its value function's word, whose bits
the `getLsbD` lemmas give, or the fault of the first operand that cannot be read. -/
theorem logicActsBitByBit : Obligations.LogicActsBitByBit := by
  unfold Obligations.LogicActsBitByBit
  refine fun s op0 op1 => ⟨rfl, rfl, rfl, rfl, fun a ha => ?not, fun a b h0 h1 => ?binary, fun i hi f h0 => ?fault0,
    fun i hi a f h0 h1 => ?fault1⟩
  case not =>
    rw [← aluNot_eq_wrap32]
    exact exec_of_unaryBody_ok (bodyOf_not op0 s) ha
  case binary =>
    refine ⟨aluXor a b, aluOr a b, aluAnd a b,
      fun k _ => ⟨getLsbD_aluXor a b k, getLsbD_aluOr a b k, getLsbD_aluAnd a b k⟩, ?xor, ?or, ?and⟩
    case xor => exact exec_of_binaryBody_ok (bodyOf_xor op0 op1 s) h0 h1 rfl
    case or => exact exec_of_binaryBody_ok (bodyOf_or op0 op1 s) h0 h1 rfl
    case and => exact exec_of_binaryBody_ok (bodyOf_and op0 op1 s) h0 h1 rfl
  case fault0 =>
    obtain rfl | hi := List.mem_cons.mp hi
    · exact exec_of_unaryBody_error (bodyOf_not op0 s) h0
    · obtain ⟨g, hb⟩ := bodyOf_eq_binaryBody_of_mem_xor_or_and hi s
      exact exec_of_binaryBody_error_left hb h0
  case fault1 =>
    obtain ⟨g, hb⟩ := bodyOf_eq_binaryBody_of_mem_xor_or_and hi s
    exact exec_of_binaryBody_error_right hb h0 h1

end Sys2Proof.Machine

/-! The statement about `cmp` (spec/45_compare.md R200). -/

namespace Sys2Proof.Machine

/-! The two bits `cmp` computes. -/

@[simp] theorem getLsbD_zero_compareFlags (a b : Word) : (compareFlags a b).getLsbD 0 = decide (a.toInt = b.toInt) :=
  BitVec.getLsbD_append.trans (by simp)

@[simp] theorem getLsbD_one_compareFlags (a b : Word) : (compareFlags a b).getLsbD 1 = decide (b.toInt < a.toInt) :=
  BitVec.getLsbD_append.trans (by simp)

/-- The flags 3 would say that the operands are equal and that one is greater. -/
theorem compareFlags_ne_three (a b : Word) : compareFlags a b ≠ 3 := by
  intro h
  have heq : a.toInt = b.toInt := of_decide_eq_true ((getLsbD_zero_compareFlags a b).symm.trans (by rw [h]; rfl))
  have hgt : b.toInt < a.toInt := of_decide_eq_true ((getLsbD_one_compareFlags a b).symm.trans (by rw [h]; rfl))
  omega

/-! What the body of `cmp` answers: operand 1 is reached only when operand 0 was read (spec/00_scope.md R12). -/

theorem bodyOf_cmp_ok {op0 op1 : Ref} {s t : State} :
    bodyOf (.cmp op0 op1) s = .ok t ↔
      ∃ a b, rd 0 op0 s = .ok a ∧ rd 1 op1 s = .ok b ∧ t = s.setFlags (compareFlags a b) := by
  simp [bodyOf, except_bind_ok, @eq_comm _ t]

theorem bodyOf_cmp_error {op0 op1 : Ref} {s : State} {f : Fault} :
    bodyOf (.cmp op0 op1) s = .error f ↔
      rd 0 op0 s = .error f ∨ ∃ a, rd 0 op0 s = .ok a ∧ rd 1 op1 s = .error f := by
  simp [bodyOf, except_bind_error]

/-- `cmp` with both operands readable replaces `FLAGS` whole. -/
theorem exec_cmp_of_rd_ok {op0 op1 : Ref} {s : State} {a b : Word} (h0 : rd 0 op0 s = .ok a) (h1 : rd 1 op1 s = .ok b) :
    exec (.cmp op0 op1) s = .next (s.setFlags (compareFlags a b)) :=
  exec_of_ok (bodyOf_cmp_ok.mpr ⟨a, b, h0, h1, rfl⟩)

/-- Settles O33: `cmp` answers `compareFlags`, whose two bits are the two relations and cannot both hold, or the fault of the first
operand that cannot be read. -/
theorem cmpSetsEqualAndGreater : Obligations.CmpSetsEqualAndGreater := by
  unfold Obligations.CmpSetsEqualAndGreater
  refine fun s op0 op1 => ⟨rfl, fun a b h0 h1 => ?flags, fun f h0 => ?fault0, fun a f h0 h1 => ?fault1⟩
  case flags =>
    exact ⟨compareFlags a b, getLsbD_zero_compareFlags a b, getLsbD_one_compareFlags a b, compareFlags_ne_three a b,
      exec_cmp_of_rd_ok h0 h1⟩
  case fault0 => exact exec_of_error (bodyOf_cmp_error.mpr (.inl h0))
  case fault1 => exact exec_of_error (bodyOf_cmp_error.mpr (.inr ⟨a, h0, h1⟩))

end Sys2Proof.Machine

/-! The statements about `jmp`, the conditional jumps, and where a transfer lands (spec/46_control_transfer.md R210 to R219). Every
jump that fires, and `call` after its push, ends in the shared `transfer`, so what the instruction answers and where its step lands
are said once, for any instruction whose body is a transfer in some state `u`. -/

namespace Sys2Proof.Machine

/-! The target minus one, then the cycle's increment (spec/46_control_transfer.md R210). -/

/-- The words are the integers modulo 2^32, so the two wraps cancel for every target, -2^31 included. -/
theorem wrap32_pred_succ (t : Word) : wrap32 ((wrap32 (t.toInt - 1)).toInt + 1) = t :=
  calc wrap32 ((wrap32 (t.toInt - 1)).toInt + 1)
    _ = wrap32 (t.toInt - 1) + wrap32 1 := by simp only [wrap32, BitVec.ofInt_add, BitVec.ofInt_toInt]
    _ = wrap32 (t.toInt - 1 + 1) := (BitVec.ofInt_add (t.toInt - 1) 1).symm
    _ = t := by rw [Int.sub_add_cancel, wrap32, BitVec.ofInt_toInt]

theorem State.setPc_setPc (s : State) (v w : Word) : (s.setPc v).setPc w = s.setPc w :=
  State.setReg_setReg_self s s.cfg.idxIp (.int v) (.int w)

theorem State.advance_setPc_pred (s : State) (t : Word) : (s.setPc (wrap32 (t.toInt - 1))).advance = s.setPc t := by
  rw [State.advance, State.pc_setPc, wrap32_pred_succ, State.setPc_setPc]

/-! What an instruction answers whose body is `transfer` in a state `u`: for a jump `u` is the state before it, for `call` the state
after its push. A fault is taken on the state before the instruction. -/

theorem exec_of_transfer_ok {i : Instr} {op0 : Ref} {s u : State} {t : Word} (hb : bodyOf i s = transfer op0 u)
    (ht : rd 0 op0 u = .ok t) : exec i s = .next (u.setPc (wrap32 (t.toInt - 1))) :=
  exec_of_ok (hb.trans (transfer_ok.mpr ⟨t, ht, rfl⟩))

theorem exec_of_transfer_error {i : Instr} {op0 : Ref} {s u : State} {f : Fault} (hb : bodyOf i s = transfer op0 u)
    (hf : rd 0 op0 u = .error f) : exec i s = .next (s.takeFault f) :=
  exec_of_error (hb.trans (transfer_error.mpr hf))

theorem step_of_transfer {i : Instr} {op0 : Ref} {s u : State} {t : Word} (hr : s.status = .running) (hf : fetch s = .ok i)
    (hi : i ≠ .sentinel) (hb : bodyOf i s = transfer op0 u) (ht : rd 0 op0 u = .ok t) : step s = .next (u.setPc t) := by
  rw [← State.advance_setPc_pred]
  exact step_of_bodyOf_ok hr hf hi (hb.trans (transfer_ok.mpr ⟨t, ht, rfl⟩))

/-! The body of each transfer. -/

theorem bodyOf_jmp (op0 : Ref) (s : State) : bodyOf (.jmp op0) s = transfer op0 s := rfl

/-- `call` whose push goes through transfers in the pushed state (spec/46_control_transfer.md R212). -/
theorem bodyOf_call_of_push {op0 : Ref} {s : State} {v : Word} {a : Nat} (hip : s.ip = .int v) (hsp : s.sp = .addr a)
    (hlim : s.cfg.stackLimit < a) :
    bodyOf (.call op0) s = transfer op0 ((s.setSp (.addr (a - 1))).memWrite (a - 1) v) := by
  have hpush : pushWord v s = .ok ((s.setSp (.addr (a - 1))).memWrite (a - 1) v) := pushWord_ok.mpr ⟨a, hsp, hlim, rfl⟩
  simp only [bodyOf, readIp_ok.mpr hip, hpush, except_ok_bind]

theorem bodyOf_je (op0 : Ref) (s : State) : bodyOf (.je op0) s = jumpBody (condE s.flags) op0 s := rfl

theorem bodyOf_jne (op0 : Ref) (s : State) : bodyOf (.jne op0) s = jumpBody (condNE s.flags) op0 s := rfl

theorem bodyOf_jg (op0 : Ref) (s : State) : bodyOf (.jg op0) s = jumpBody (condG s.flags) op0 s := rfl

theorem bodyOf_jge (op0 : Ref) (s : State) : bodyOf (.jge op0) s = jumpBody (condGE s.flags) op0 s := rfl

theorem bodyOf_jl (op0 : Ref) (s : State) : bodyOf (.jl op0) s = jumpBody (condL s.flags) op0 s := rfl

theorem bodyOf_jle (op0 : Ref) (s : State) : bodyOf (.jle op0) s = jumpBody (condLE s.flags) op0 s := rfl

/-! The condition of each conditional jump, on the two bits of `FLAGS` (spec/46_control_transfer.md R213). -/

theorem condE_iff {f : BitVec 2} : condE f = true ↔ f.getLsbD 0 = true := Iff.rfl

theorem condNE_iff {f : BitVec 2} : condNE f = true ↔ f.getLsbD 0 = false := by simp [condNE, flagE]

theorem condG_iff {f : BitVec 2} : condG f = true ↔ f.getLsbD 1 = true := Iff.rfl

theorem condGE_iff {f : BitVec 2} : condGE f = true ↔ f.getLsbD 0 = true ∨ f.getLsbD 1 = true := by
  simp [condGE, flagE, flagG]

theorem condL_iff {f : BitVec 2} : condL f = true ↔ f.getLsbD 0 = false ∧ f.getLsbD 1 = false := by
  simp [condL, flagE, flagG]

theorem condLE_iff {f : BitVec 2} : condLE f = true ↔ f.getLsbD 1 = false := by simp [condLE, flagG]

/-! What a conditional jump does: fired it is a transfer, not fired it is nothing. -/

theorem jumpBody_of_fires {c : Bool} (op0 : Ref) (s : State) (hc : c = true) : jumpBody c op0 s = transfer op0 s :=
  if_pos hc

/-- A conditional jump whose condition is read as the proposition `fires`. -/
theorem exec_of_jumpBody {i : Instr} {c : Bool} {fires : Prop} {op0 : Ref} {s : State}
    (hb : bodyOf i s = jumpBody c op0 s) (hc : c = true ↔ fires) :
    (fires → (∀ t, rd 0 op0 s = .ok t → exec i s = .next (s.setPc (wrap32 (t.toInt - 1)))) ∧
      (∀ f, rd 0 op0 s = .error f → exec i s = .next (s.takeFault f))) ∧
    (¬fires → exec i s = .next s) := by
  refine ⟨fun h => ?fired, fun h => ?notFired⟩
  case fired =>
    have htransfer : bodyOf i s = transfer op0 s := hb.trans (jumpBody_of_fires op0 s (hc.mpr h))
    exact ⟨fun t => exec_of_transfer_ok htransfer, fun f => exec_of_transfer_error htransfer⟩
  case notFired =>
    have hfalse : c = false := Bool.eq_false_of_not_eq_true (mt hc.mp h)
    exact exec_of_ok (hb.trans (jumpBody_ok.mpr (.inr ⟨hfalse, rfl⟩)))

/-- Settles O35: a jump that is taken has the transfer as its body, and `call` has it in the pushed state, so `step_of_transfer`
lands each of them on its target. -/
theorem transfersLandExactlyOnTheTarget : Obligations.TransfersLandExactlyOnTheTarget := by
  unfold Obligations.TransfersLandExactlyOnTheTarget
  refine ⟨fun s op0 => ⟨fun t ht => transfer_ok.mpr ⟨t, ht, rfl⟩, fun f => transfer_error.mpr⟩,
    fun s op0 i t hr hf => ⟨fun hi ht => ?jump, fun a v hi hip hsp hlim ht => ?call⟩⟩
  case jump =>
    obtain ⟨hns, hb⟩ : i ≠ .sentinel ∧ bodyOf i s = transfer op0 s := by
      obtain rfl | ⟨rfl, h⟩ | ⟨rfl, h⟩ | ⟨rfl, h⟩ | ⟨rfl, h⟩ | ⟨rfl, h⟩ | ⟨rfl, h⟩ := hi
      · exact ⟨nofun, bodyOf_jmp op0 s⟩
      · exact ⟨nofun, (bodyOf_je op0 s).trans (jumpBody_of_fires op0 s (condE_iff.mpr h))⟩
      · exact ⟨nofun, (bodyOf_jne op0 s).trans (jumpBody_of_fires op0 s (condNE_iff.mpr h))⟩
      · exact ⟨nofun, (bodyOf_jg op0 s).trans (jumpBody_of_fires op0 s (condG_iff.mpr h))⟩
      · exact ⟨nofun, (bodyOf_jge op0 s).trans (jumpBody_of_fires op0 s (condGE_iff.mpr h))⟩
      · exact ⟨nofun, (bodyOf_jl op0 s).trans (jumpBody_of_fires op0 s (condL_iff.mpr h))⟩
      · exact ⟨nofun, (bodyOf_jle op0 s).trans (jumpBody_of_fires op0 s (condLE_iff.mpr h))⟩
    exact step_of_transfer hr hf hns hb ht
  case call =>
    subst hi
    exact step_of_transfer hr hf nofun (bodyOf_call_of_push hip hsp hlim) ht

/-- Settles O34: the body of `jmp` is the transfer itself. -/
theorem jmpStoresTheTargetMinusOne : Obligations.JmpStoresTheTargetMinusOne := by
  unfold Obligations.JmpStoresTheTargetMinusOne
  refine fun s op0 => ⟨rfl, fun t ht => ?body, fun t hr hf ht => ?step, fun f hf => ?fault⟩
  case body => exact exec_of_transfer_ok (bodyOf_jmp op0 s) ht
  case step => exact step_of_transfer hr hf nofun (bodyOf_jmp op0 s) ht
  case fault => exact exec_of_transfer_error (bodyOf_jmp op0 s) hf

/-- Settles O37: all six bodies are the conditional transfer; each jump has its own condition on the two bits of `FLAGS`. -/
theorem conditionalJumpsTestTheFlags : Obligations.ConditionalJumpsTestTheFlags := by
  unfold Obligations.ConditionalJumpsTestTheFlags
  intro s op0 jumps
  refine ⟨⟨rfl, ?je⟩, ⟨rfl, ?jne⟩, ⟨rfl, ?jg⟩, ⟨rfl, ?jge⟩, ⟨rfl, ?jl⟩, ⟨rfl, ?jle⟩⟩
  case je => exact exec_of_jumpBody (bodyOf_je op0 s) condE_iff
  case jne => exact exec_of_jumpBody (bodyOf_jne op0 s) condNE_iff
  case jg => exact exec_of_jumpBody (bodyOf_jg op0 s) condG_iff
  case jge => exact exec_of_jumpBody (bodyOf_jge op0 s) condGE_iff
  case jl => exact exec_of_jumpBody (bodyOf_jl op0 s) condL_iff
  case jle => exact exec_of_jumpBody (bodyOf_jle op0 s) condLE_iff

end Sys2Proof.Machine

/-! The statement about `prn` (spec/47_output.md R240). -/

namespace Sys2Proof.Machine

/-! What the body of `prn` answers: the one thing it can fail at is the read of its operand (spec/47_output.md R240). -/

theorem bodyOf_prn_ok {op0 : Ref} {s t : State} :
    bodyOf (.prn op0) s = .ok t ↔ ∃ v, rd 0 op0 s = .ok v ∧ t = s.emit v := by
  simp [bodyOf, except_bind_ok, @eq_comm _ t]

theorem bodyOf_prn_error {op0 : Ref} {s : State} {f : Fault} :
    bodyOf (.prn op0) s = .error f ↔ rd 0 op0 s = .error f := by
  simp [bodyOf, except_bind_error]

/-- Settles O41: the body reads operand 0 and emits its value, so `emit`, which changes `Out` alone, is all that a completed `prn`
does; a read that faults leaves the fault to be taken on the state before it. -/
theorem prnAppendsToTheOutput : Obligations.PrnAppendsToTheOutput := by
  unfold Obligations.PrnAppendsToTheOutput
  refine fun s op0 => ⟨rfl, fun v hv => ?value, fun f hf => ?fault⟩
  case value => exact exec_of_ok (bodyOf_prn_ok.mpr ⟨v, hv, rfl⟩)
  case fault => exact exec_of_error (bodyOf_prn_error.mpr hf)

end Sys2Proof.Machine

/-! The statements about the encoding (spec/30_encoding.md R82 to R87). The decoder's two outcomes are each said once, in terms of the
two reference fields and the opcode table. -/

namespace Sys2Proof

/-! The opcode table (spec/30_encoding.md R84). -/

/-- The opcode table finds every instruction back from its opcode and its operands. -/
theorem selectInstr_opcode (i : Instr) : Laws.SelectsByOpcode.Statement i :=
  match i with
  | .nop => Laws.SelectsByOpcode.nop
  | .int => Laws.SelectsByOpcode.int
  | .mov a b => Laws.SelectsByOpcode.mov a b
  | .push a => Laws.SelectsByOpcode.push a
  | .pop a => Laws.SelectsByOpcode.pop a
  | .pushf => Laws.SelectsByOpcode.pushf
  | .popf a => Laws.SelectsByOpcode.popf a
  | .inc a => Laws.SelectsByOpcode.inc a
  | .dec a => Laws.SelectsByOpcode.dec a
  | .add a b => Laws.SelectsByOpcode.add a b
  | .sub a b => Laws.SelectsByOpcode.sub a b
  | .mul a b => Laws.SelectsByOpcode.mul a b
  | .div a b => Laws.SelectsByOpcode.div a b
  | .mod a b => Laws.SelectsByOpcode.mod a b
  | .rem a => Laws.SelectsByOpcode.rem a
  | .not a => Laws.SelectsByOpcode.not a
  | .xor a b => Laws.SelectsByOpcode.xor a b
  | .or a b => Laws.SelectsByOpcode.or a b
  | .and a b => Laws.SelectsByOpcode.and a b
  | .shl a b => Laws.SelectsByOpcode.shl a b
  | .shr a b => Laws.SelectsByOpcode.shr a b
  | .cmp a b => Laws.SelectsByOpcode.cmp a b
  | .jmp a => Laws.SelectsByOpcode.jmp a
  | .call a => Laws.SelectsByOpcode.call a
  | .ret => Laws.SelectsByOpcode.ret
  | .je a => Laws.SelectsByOpcode.je a
  | .jne a => Laws.SelectsByOpcode.jne a
  | .jg a => Laws.SelectsByOpcode.jg a
  | .jge a => Laws.SelectsByOpcode.jge a
  | .jl a => Laws.SelectsByOpcode.jl a
  | .jle a => Laws.SelectsByOpcode.jle a
  | .prn a => Laws.SelectsByOpcode.prn a
  | .sentinel => Laws.SelectsByOpcode.sentinel

/-- The record that `encode` writes holds the instruction's own operands. -/
theorem selectInstr_opcode_op0_op1 {i : Instr} (hi : i ≠ .sentinel) : selectInstr i.opcode i.op0 i.op1 = some i := by
  rw [selectInstr_opcode i i.op0 i.op1 (by simp +contextual [Instr.op0]) (by simp +contextual [Instr.op1]), if_neg hi]

/-- The sentinel's opcode is its own: the table selects nothing by it, and every other instruction by its own opcode. -/
theorem Instr.opcode_eq_sentinelOpcode {i : Instr} : i.opcode = sentinelOpcode ↔ i = .sentinel := by
  refine ⟨fun h => ?_, fun h => by rw [h]; rfl⟩
  by_contra hi
  have hself := selectInstr_opcode_op0_op1 hi
  have hnone : selectInstr sentinelOpcode i.op0 i.op1 = none :=
    selectInstr_opcode .sentinel i.op0 i.op1 (by simp [Instr.operands]) (by simp [Instr.operands])
  rw [h, hnone] at hself
  cases hself

/-- Each instruction of the table takes its operands from the record, in order. -/
theorem operands_of_mem_instructionsWith {r0 r1 : Ref} {i : Instr} (h : i ∈ instructionsWith r0 r1) :
    i.operands = [r0, r1].take i.arity := by
  revert i
  simp [instructionsWith, Instr.operands, Instr.arity]

/-- What the table selects has the opcode asked for and takes its operands from the record. -/
theorem selectInstr_some {opc : Word} {r0 r1 : Ref} {i : Instr} (h : selectInstr opc r0 r1 = some i) :
    i.opcode = opc ∧ i.operands = [r0, r1].take i.arity :=
  ⟨by simpa using List.find?_some h, operands_of_mem_instructionsWith (List.mem_of_find?_eq_some h)⟩

theorem map_opcode_instructionsWith (r0 r1 : Ref) :
    (instructionsWith r0 r1).map Instr.opcode = (List.range 32).map (BitVec.ofNat 32) := rfl

/-- The table's opcodes are 0 to 31, whatever the references. -/
theorem selectInstr_eq_none {opc : Word} {r0 r1 : Ref} :
    selectInstr opc r0 r1 = none ↔ opc.toInt < 0 ∨ 31 < opc.toInt := by
  have hmem : selectInstr opc r0 r1 = none ↔ opc ∉ (instructionsWith r0 r1).map Instr.opcode := by
    simp [selectInstr, List.find?_eq_none]
  have hrange : opc ∈ (List.range 32).map (BitVec.ofNat 32) ↔ opc.toNat < 32 := by
    simp only [List.mem_map, List.mem_range]
    constructor
    · rintro ⟨n, hn, rfl⟩
      rw [BitVec.toNat_ofNat]
      omega
    · exact fun h => ⟨opc.toNat, h, by simp⟩
  rw [hmem, map_opcode_instructionsWith, hrange, BitVec.toInt_eq_toNat_cond]
  split <;> omega

/-! Reference fields (spec/30_encoding.md R86). -/

/-- A field is refused exactly for the reserved kind, or for an absent reference with an index. -/
theorem decodeRef_error {pos : Fin 2} {f : BitVec 32} :
    (∃ e, decodeRef pos f = .error e) ↔ refKind f = 0b11 ∨ (refKind f = 0b00 ∧ refIndex f ≠ 0) := by
  have hkind : ∀ k : BitVec 2, k = 0 ∨ k = 1 ∨ k = 2 ∨ k = 3 := by decide
  obtain hk | hk | hk | hk := hkind (refKind f)
  · by_cases hx : refIndex f = 0 <;> simp [decodeRef, hk, hx]
  all_goals simp [decodeRef, hk]

/-! The decoder's outcomes (spec/30_encoding.md R87). -/

/-- What the decoder reads: the sentinel by its opcode alone, else both fields and the table. -/
theorem decode_ok {w : PackedRecord} {i : Instr} :
    decode w = .ok i ↔
      (opcodeField w = sentinelOpcode ∧ i = .sentinel) ∨
      (opcodeField w ≠ sentinelOpcode ∧ ∃ r0 r1, decodeRef 0 (ref0Field w) = .ok r0 ∧
        decodeRef 1 (ref1Field w) = .ok r1 ∧ selectInstr (opcodeField w) r0 r1 = some i) := by
  unfold decode
  by_cases hs : opcodeField w = sentinelOpcode
  · simp [hs, eq_comm]
  · simp only [hs, if_false, false_and, false_or, ne_eq, not_false_eq_true, true_and]
    cases decodeRef 0 (ref0Field w) with
    | error e => simp
    | ok r0 =>
      cases decodeRef 1 (ref1Field w) with
      | error e => simp
      | ok r1 => cases hsel : selectInstr (opcodeField w) r0 r1 <;> simp [hsel]

/-- What the decoder refuses: no sentinel, and a bad field or an opcode outside the table. -/
theorem decode_error {w : PackedRecord} :
    (∃ e, decode w = .error e) ↔
      opcodeField w ≠ sentinelOpcode ∧
      ((∃ e, decodeRef 0 (ref0Field w) = .error e) ∨ (∃ e, decodeRef 1 (ref1Field w) = .error e) ∨
        (opcodeField w).toInt < 0 ∨ 31 < (opcodeField w).toInt) := by
  unfold decode
  by_cases hs : opcodeField w = sentinelOpcode
  · simp [hs]
  · simp only [hs, if_false, ne_eq, not_false_eq_true, true_and]
    cases decodeRef 0 (ref0Field w) with
    | error e => simp
    | ok r0 =>
      cases decodeRef 1 (ref1Field w) with
      | error e => simp
      | ok r1 =>
        rw [← selectInstr_eq_none (r0 := r0) (r1 := r1)]
        cases hsel : selectInstr (opcodeField w) r0 r1 <;> simp [hsel]

theorem getElem?_operands_of_two_le (i : Instr) {n : Nat} (h : 2 ≤ n) : i.operands[n]? = none := by
  have hlen : i.operands.length ≤ 2 := by cases i <;> simp [Instr.operands]
  exact List.getElem?_eq_none (by omega)

/-! The operands of an instruction that a record can hold. -/

theorem Instr.wf_op0 {i : Instr} (h : i.wf = true) : i.op0.wf = true := by
  unfold Instr.op0
  cases hops : i.operands with
  | nil => rfl
  | cons a t => exact List.all_eq_true.mp h a (by simp [hops])

theorem Instr.wf_op1 {i : Instr} (h : i.wf = true) : i.op1.wf = true := by
  unfold Instr.op1
  match hops : i.operands with
  | [] | [_] => rfl
  | _ :: b :: _ => exact List.all_eq_true.mp h b (by simp [hops])

/-- Settles O2: the two fields are read back as they were written, and the opcode table finds the instruction back from them. -/
theorem decodeOfEncodeIsTheInstruction : Obligations.DecodeOfEncodeIsTheInstruction := by
  unfold Obligations.DecodeOfEncodeIsTheInstruction
  intro i hwf
  rw [decode_ok, encode, opcodeField_packRecord, ref0Field_packRecord, ref1Field_packRecord]
  by_cases hi : i = .sentinel
  · exact .inl ⟨Instr.opcode_eq_sentinelOpcode.mpr hi, hi⟩
  · exact .inr ⟨mt Instr.opcode_eq_sentinelOpcode.mp hi, i.op0, i.op1, decodeRef_encodeRef 0 (Instr.wf_op0 hwf),
      decodeRef_encodeRef 1 (Instr.wf_op1 hwf), selectInstr_opcode_op0_op1 hi⟩

/-- What a word of a decoded instruction holds: its opcode, and in the fields below its arity its operands. -/
theorem fields_of_decode_ok {w : PackedRecord} {i : Instr} (h : decode w = .ok i) :
    opcodeField w = i.opcode ∧
    (∀ a, i.operands[0]? = some a → decodeRef 0 (ref0Field w) = .ok a) ∧
    (∀ b, i.operands[1]? = some b → decodeRef 1 (ref1Field w) = .ok b) := by
  rcases decode_ok.mp h with ⟨hw, rfl⟩ | ⟨_, r0, r1, h0, h1, hsel⟩
  · exact ⟨hw, by simp [Instr.operands], by simp [Instr.operands]⟩
  · obtain ⟨hopc, hops⟩ := selectInstr_some hsel
    rw [hops, h0, h1]
    exact ⟨hopc.symm, by simp +contextual [List.getElem?_take]⟩

/-- Settles O3: the fields below the arity were read as the operands, and what a field is read as is written back as the field. -/
theorem decodedInstructionIsTheWordsFields : Obligations.DecodedInstructionIsTheWordsFields := by
  unfold Obligations.DecodedInstructionIsTheWordsFields
  intro w i h
  obtain ⟨hopc, h0, h1⟩ := fields_of_decode_ok h
  refine ⟨List.all_eq_true.mpr fun a ha => ?wf, hopc, fun a ha => (encodeRef_of_decodeRef (h0 a ha)).symm,
    fun b hb => (encodeRef_of_decodeRef (h1 b hb)).symm⟩
  obtain ⟨n, hn⟩ := List.mem_iff_getElem?.mp ha
  match n with
  | 0 => exact wf_of_decodeRef (h0 a hn)
  | 1 => exact wf_of_decodeRef (h1 a hn)
  | n + 2 => cases (getElem?_operands_of_two_le i (by omega)).symm.trans hn

/-- Settles O4: the decoder's refusals, with each field's refusals spelled out. -/
theorem decodeRefusesExactlyTheInvalidWords : Obligations.DecodeRefusesExactlyTheInvalidWords := by
  unfold Obligations.DecodeRefusesExactlyTheInvalidWords
  intro w bad
  rw [decode_error, decodeRef_error, decodeRef_error]
  exact Iff.rfl

/-- Settles O5: below the arity the second word's fields are read as the first one's operands, and the opcode table looks at nothing
else. -/
theorem surplusOperandsAreIgnored : Obligations.SurplusOperandsAreIgnored := by
  unfold Obligations.SurplusOperandsAreIgnored
  intro w w' i j hi hj hopc hf0 hf1
  obtain ⟨hiopc, hi0, hi1⟩ := fields_of_decode_ok hi
  rcases decode_ok.mp hj with ⟨hw', rfl⟩ | ⟨hw', r0, r1, h0, h1, hsel⟩
  · exact (Instr.opcode_eq_sentinelOpcode.mp (hiopc.symm.trans (hopc.symm.trans hw'))).symm
  · have hr0 : ∀ a, i.operands[0]? = some a → r0 = a := fun a ha => by
      have hlt : 0 < i.operands.length := (List.getElem?_eq_some_iff.mp ha).1
      rw [hf0 hlt, hi0 a ha] at h0
      cases h0
      rfl
    have hr1 : ∀ b, i.operands[1]? = some b → r1 = b := fun b hb => by
      have hlt : 1 < i.operands.length := (List.getElem?_eq_some_iff.mp hb).1
      rw [hf1 hlt, hi1 b hb] at h1
      cases h1
      rfl
    have hself := selectInstr_opcode i r0 r1 hr0 hr1
    rw [if_neg (fun hs => hw' (hopc.trans (hiopc.trans (Instr.opcode_eq_sentinelOpcode.mpr hs)))), ← hiopc, ← hopc,
      hsel] at hself
    exact Option.some.inj hself

/-- Settles O1: the decoder runs on the nine words. -/
theorem decodesWordsWrittenOutFromTheLayout : Obligations.DecodesWordsWrittenOutFromTheLayout := by
  unfold Obligations.DecodesWordsWrittenOutFromTheLayout
  decide

end Sys2Proof

/-! The statements about fetch, the cycle and the step (spec/40_execution_cycle.md R112 to R116; spec/10_state.md R42;
spec/60_exceptions.md R251). What a step answers is said once for each way a cycle can go: a fault of fetch, a fault of the body, a
body that leaves the core Running, a body that stops it. -/

namespace Sys2Proof.Machine

/-! What a step answers, by the way its cycle goes (the converses of `step_next`). -/

theorem step_of_fetch_error {s : State} {f : Fault} (hr : s.status = .running) (hf : fetch s = .error f) :
    step s = .next (s.takeFault f) := by
  rw [step_of_running hr, cycle_of_fetch_error hf]

theorem step_of_bodyOf_error {i : Instr} {s : State} {f : Fault} (hr : s.status = .running) (hf : fetch s = .ok i)
    (hb : bodyOf i s = .error f) : step s = .next (s.takeFault f) := by
  rw [step_of_running hr, cycle_of_fetch_ok hf, exec_of_error hb]
  simp [retire]

/-- After the body: a core that is still Running advances `pc` (spec/40_execution_cycle.md R113). -/
theorem step_of_exec_running {i : Instr} {s t : State} (hr : s.status = .running) (hf : fetch s = .ok i)
    (he : exec i s = .next t) (ht : t.status = .running) : step s = .next t.advance := by
  rw [step_of_running hr, cycle_of_fetch_ok hf, he, retire, if_pos ht]

/-- A body that stopped the core, by a fault taken or a sentinel, is not followed by an advance. -/
theorem step_of_exec_stopped {i : Instr} {s t : State} (hr : s.status = .running) (hf : fetch s = .ok i)
    (he : exec i s = .next t) (ht : t.status ≠ .running) : step s = .next t := by
  rw [step_of_running hr, cycle_of_fetch_ok hf, he, retire, if_neg ht]

theorem step_of_halted {s : State} (h : s.status = .halted) : step s = .refused .notRunning := by
  simp [step, stepCore, h]

theorem step_of_faulted {s : State} {f : Fault} {j : Word} (h : s.status = .faulted f j) : step s = .fault f := by
  simp [step, stepCore, h]

theorem bodyOf_sentinel (s : State) : bodyOf .sentinel s = .ok (s.setStatus .halted) := rfl

/-- A body stops the core at most by halting it: a fault is no part of its answer. -/
theorem bodyOf_status_cases {i : Instr} {s t : State} (h : bodyOf i s = .ok t) :
    t.status = s.status ∨ t.status = .halted := by
  by_cases hi : i = .sentinel
  · subst hi
    cases h
    exact .inr rfl
  · exact .inl (bodyOf_status h hi)

/-- A Faulted core after a body is one that took a fault. -/
theorem exec_faulted {i : Instr} {s t : State} {f : Fault} {j : Word} (hr : s.status = .running)
    (he : exec i s = .next t) (ht : t.status = .faulted f j) : bodyOf i s = .error f ∧ t = s.takeFault f := by
  rcases exec_next.mp he with hb | ⟨g, hb, rfl⟩
  · rcases bodyOf_status_cases hb with h | h
    · rw [h, hr] at ht
      cases ht
    · rw [h] at ht
      cases ht
  · cases ht
    exact ⟨hb, rfl⟩

/-- A Running core after a body is one whose body completed. -/
theorem bodyOf_ok_of_exec_running {i : Instr} {s t : State} (he : exec i s = .next t) (ht : t.status = .running) :
    bodyOf i s = .ok t := by
  rcases exec_next.mp he with hb | ⟨f, _, rfl⟩
  · exact hb
  · cases ht

/-- A step that ends Faulted took a fault of fetch or of the fetched instruction's body. -/
theorem step_faulted {s t : State} {f : Fault} {j : Word} (h : step s = .next t) (ht : t.status = .faulted f j) :
    t = s.takeFault f ∧ (fetch s = .error f ∨ ∃ i, fetch s = .ok i ∧ bodyOf i s = .error f) := by
  obtain ⟨hr, hcases⟩ := step_next h
  rcases hcases with ⟨g, hf, rfl⟩ | ⟨i, g, hf, hb, rfl⟩ | ⟨i, u, _, _, hu, rfl⟩ | ⟨i, u, _, hb, hu, rfl⟩
  · cases ht
    exact ⟨rfl, .inl hf⟩
  · cases ht
    exact ⟨rfl, .inr ⟨i, hf, hb⟩⟩
  · rw [State.advance_status, hu] at ht
    cases ht
  · rcases bodyOf_status_cases hb with h | h
    · exact absurd (h.trans hr) hu
    · rw [h] at ht
      cases ht

/-! Fetch (spec/40_execution_cycle.md R112). -/

/-- The parts of a state that fetch looks at: the Program, `ip`, and the number of the slot that is `ip`. -/
theorem fetch_congr {s t : State} (hp : t.program = s.program) (hc : t.cfg.idxIp = s.cfg.idxIp) (hi : t.ip = s.ip) :
    fetch t = fetch s := by
  have hip : readIp t = readIp s := by simp only [readIp, hi, hc]
  simp only [fetch, fetchRecord, hip, hp]

theorem fetch_of_record {s : State} {v : Word} {w : PackedRecord} {i : Instr} (hip : s.ip = .int v) (h0 : 0 ≤ v.toInt)
    (hw : s.program.code[v.toNat]? = some w) (hd : decode w = .ok i) : fetch s = .ok i :=
  fetch_ok.mpr ⟨w, fetchRecord_ok.mpr ⟨v, hip, h0, hw⟩, hd⟩

theorem fetch_of_invalid_record {s : State} {v : Word} {w : PackedRecord} {e : DecodeError} (hip : s.ip = .int v)
    (h0 : 0 ≤ v.toInt) (hw : s.program.code[v.toNat]? = some w) (hd : decode w = .error e) :
    fetch s = .error (.illegalOpcode (opcodeField w)) :=
  fetch_error.mpr (.inr ⟨w, e, fetchRecord_ok.mpr ⟨v, hip, h0, hw⟩, hd, rfl⟩)

theorem fetch_of_index_outside {s : State} {v : Word} (hip : s.ip = .int v)
    (h : v.toInt < 0 ∨ (s.program.code.length : Int) ≤ v.toInt) : fetch s = .error (.fetchRange v) := by
  have hlen : v.toInt < 0 ∨ s.program.code.length ≤ v.toNat := by
    have hle : v.toInt ≤ v.toNat := by
      rw [BitVec.toInt_eq_toNat_cond]
      split <;> omega
    omega
  exact fetch_error.mpr (.inl (fetchRecord_error.mpr (.inr ⟨v, hip, hlen, rfl⟩)))

/-- No body changes the Program or the parameters. -/
theorem BodyEffect.cfg_program {i : Instr} {s t : State} (h : BodyEffect s i t) :
    t.cfg = s.cfg ∧ t.program = s.program := by
  cases h <;> simp

/-- No step changes the Program or the parameters (spec/10_state.md R35). -/
theorem step_cfg_program {s t : State} (h : step s = .next t) : t.cfg = s.cfg ∧ t.program = s.program := by
  rcases (step_next h).2 with ⟨f, _, rfl⟩ | ⟨i, f, _, _, rfl⟩ | ⟨i, u, _, hb, _, rfl⟩ | ⟨i, u, _, hb, _, rfl⟩
  · exact ⟨rfl, rfl⟩
  · exact ⟨rfl, rfl⟩
  · exact (bodyOf_effect hb).cfg_program
  · exact (bodyOf_effect hb).cfg_program

/-- Settles O11: fetch is a function of the Program and `ip`, and no body and no fault writes the Program. -/
theorem fetchSeesOnlyTheProgramAndIp : Obligations.FetchSeesOnlyTheProgramAndIp := by
  unfold Obligations.FetchSeesOnlyTheProgramAndIp
  exact ⟨fun s t hp hc hi => fetch_congr hp (by rw [hc]) hi, fun s t h => (step_cfg_program h).2⟩

/-- Settles O12: the cycle fetches the decoded instruction, runs it and retires it. -/
theorem stepRunsTheDecodedInstruction : Obligations.StepRunsTheDecodedInstruction := by
  unfold Obligations.StepRunsTheDecodedInstruction
  intro s v w i hr hip h0 hw hd
  have hf : fetch s = .ok i := fetch_of_record hip h0 hw hd
  have he : exec i s = .next (execState i s) := exec_eq_next i s
  exact ⟨execState i s, he, step_of_exec_running hr hf he, step_of_exec_stopped hr hf he⟩

/-- Settles O13: both faults are fetch's own, so they are taken before any body runs. -/
theorem fetchFaultsAreTaken : Obligations.FetchFaultsAreTaken := by
  unfold Obligations.FetchFaultsAreTaken
  intro s v hr hip
  exact ⟨fun h => step_of_fetch_error hr (fetch_of_index_outside hip h),
    fun w e h0 hw hd => step_of_fetch_error hr (fetch_of_invalid_record hip h0 hw hd)⟩

/-- Settles O14: the step looks at the status first. -/
theorem notRunningTakesNoStep : Obligations.NotRunningTakesNoStep := by
  unfold Obligations.NotRunningTakesNoStep
  exact fun s => ⟨step_of_halted, fun f i => step_of_faulted⟩

/-- Opcode -1 is decoded before the reference fields are looked at (spec/30_encoding.md R83). -/
theorem decode_of_opcodeField_eq_neg_one {w : PackedRecord} (h : opcodeField w = -1) : decode w = .ok .sentinel :=
  decode_ok.mpr (.inl ⟨h, rfl⟩)

/-- Settles O15: the sentinel's body halts the core, and a core that is not Running is not advanced. -/
theorem sentinelRecordEndsTheRun : Obligations.SentinelRecordEndsTheRun := by
  unfold Obligations.SentinelRecordEndsTheRun
  refine ⟨fun w => decode_of_opcodeField_eq_neg_one, fun s => exec_of_ok (bodyOf_sentinel s),
    fun s v w hr hip h0 hw hopc => ?step, fun c p hp => ?last⟩
  case step =>
    have hf : fetch s = .ok .sentinel := fetch_of_record hip h0 hw (decode_of_opcodeField_eq_neg_one hopc)
    exact step_of_exec_stopped hr hf (exec_of_ok (bodyOf_sentinel s)) nofun
  case last =>
    obtain ⟨_, _, ⟨w, hlast, hs⟩, _⟩ := hp
    exact ⟨w, hlast, eq_of_beq hs⟩

/-- Settles O54: the host's step dispatches on what fetch answers, with no test of the status and no retirement. -/
theorem hostStepIsTheBodyAlone : Obligations.HostStepIsTheBodyAlone := by
  unfold Obligations.HostStepIsTheBodyAlone
  intro s
  refine ⟨fun i hf hi => ?body, fun hf => ?sentinel, fun f hf => ?fault⟩
  case body =>
    cases i with
    | sentinel => exact absurd rfl hi
    | _ => simp only [hostStep, hf]
  case sentinel =>
    simp only [hostStep, hf]
    rfl
  case fault => simp only [hostStep, hf]

/-- Settles O43: a step that ends Faulted took a fault on the state before it, and a Faulted core answers that fault. -/
theorem faultsArePreciseAndTerminal : Obligations.FaultsArePreciseAndTerminal := by
  unfold Obligations.FaultsArePreciseAndTerminal
  intro s t f j h ht
  obtain ⟨rfl, _⟩ := step_faulted h ht
  cases ht
  exact ⟨rfl, rfl, step_of_faulted (State.takeFault_status s f)⟩

end Sys2Proof.Machine

/-! Simulation between states that differ only where no operand looks: the statements that the byte order is not observable
(spec/20_memory.md R53) and that the stack base takes no part in a step (spec/10_state.md R25, spec/42_stack.md R148). What such a
relation has to give is said once (`Simulation`), and that every body and every step keeps it is proved once. -/

namespace Sys2Proof.Machine

/-- A relation between two states that no body can tell apart through the references in `usable`: what can be read through them and
through `sp`, `ip`, `FLAGS` and `REM` is the same on both sides, and every write keeps the relation. -/
structure Simulation (usable : Ref → Prop) (R : State → State → Prop) : Prop where
  cfg : ∀ {s t}, R s t → ∃ o, t.cfg = { s.cfg with byteOrder := o }
  program : ∀ {s t}, R s t → t.program = s.program
  status : ∀ {s t}, R s t → t.status = s.status
  flags : ∀ {s t}, R s t → t.flags = s.flags
  rem : ∀ {s t}, R s t → t.rem = s.rem
  usable_sp : ∀ {s t}, R s t → usable (.registerSlot s.cfg.idxSp)
  usable_ip : ∀ {s t}, R s t → usable (.registerSlot s.cfg.idxIp)
  reg : ∀ {s t} {i : Fin 17}, R s t → usable (.registerSlot i) → t.reg i = s.reg i
  memRead : ∀ {s t c}, R s t → c < s.cfg.memCells → t.memRead c = s.memRead c
  setReg : ∀ {s t} {i : Fin 17} (x : Slot), R s t → usable (.registerSlot i) → R (s.setReg i x) (t.setReg i x)
  memWrite : ∀ {s t} (c : Nat) (v : Word), R s t → R (s.memWrite c v) (t.memWrite c v)
  setFlags : ∀ {s t} (f : BitVec 2), R s t → R (s.setFlags f) (t.setFlags f)
  setRem : ∀ {s t} (v : Word), R s t → R (s.setRem v) (t.setRem v)
  emit : ∀ {s t} (v : Word), R s t → R (s.emit v) (t.emit v)
  setStatus : ∀ {s t} (x : Status), R s t → R (s.setStatus x) (t.setStatus x)

/-- Two bodies answer alike: related states, or the same fault. -/
inductive AnswersAlike (R : State → State → Prop) : Except Fault State → Except Fault State → Prop where
  | ok {s t : State} (h : R s t) : AnswersAlike R (.ok s) (.ok t)
  | error (f : Fault) : AnswersAlike R (.error f) (.error f)

theorem AnswersAlike.bind {R : State → State → Prop} {x y : Except Fault State} {g : State → Except Fault State}
    (h : AnswersAlike R x y) (hg : ∀ {s t}, R s t → AnswersAlike R (g s) (g t)) : AnswersAlike R (x >>= g) (y >>= g) := by
  cases h with
  | ok h => exact hg h
  | error f => exact .error f

/-- One value read on both sides, then two bodies that answer alike. -/
theorem AnswersAlike.bind_same {R : State → State → Prop} {α : Type} (x : Except Fault α) {g k : α → Except Fault State}
    (h : ∀ a, AnswersAlike R (g a) (k a)) : AnswersAlike R (x >>= g) (x >>= k) := by
  cases x with
  | ok a => exact h a
  | error f => exact .error f

theorem AnswersAlike.ok_left {R : State → State → Prop} {x y : Except Fault State} {s : State} (h : AnswersAlike R x y)
    (hx : x = .ok s) : ∃ t, y = .ok t ∧ R s t := by
  subst hx
  cases h with
  | ok h => exact ⟨_, rfl, h⟩

theorem AnswersAlike.error_left {R : State → State → Prop} {x y : Except Fault State} {f : Fault} (h : AnswersAlike R x y)
    (hx : x = .error f) : y = .error f := by
  subst hx
  cases h with
  | error => rfl

namespace Simulation

variable {usable : Ref → Prop} {R : State → State → Prop} {s t : State}

/-! What both sides see alike. -/

theorem memCells (h : Simulation usable R) (hR : R s t) : t.cfg.memCells = s.cfg.memCells := by
  obtain ⟨o, ho⟩ := h.cfg hR
  rw [ho]
  rfl

theorem stackLimit (h : Simulation usable R) (hR : R s t) : t.cfg.stackLimit = s.cfg.stackLimit := by
  obtain ⟨o, ho⟩ := h.cfg hR
  rw [ho]
  rfl

theorem idxSp (h : Simulation usable R) (hR : R s t) : t.cfg.idxSp = s.cfg.idxSp := by
  obtain ⟨o, ho⟩ := h.cfg hR
  rw [ho]

theorem idxIp (h : Simulation usable R) (hR : R s t) : t.cfg.idxIp = s.cfg.idxIp := by
  obtain ⟨o, ho⟩ := h.cfg hR
  rw [ho]

theorem sp (h : Simulation usable R) (hR : R s t) : t.sp = s.sp := by
  rw [State.sp, h.idxSp hR, h.reg hR (h.usable_sp hR), State.sp]

theorem ip (h : Simulation usable R) (hR : R s t) : t.ip = s.ip := by
  rw [State.ip, h.idxIp hR, h.reg hR (h.usable_ip hR), State.ip]

theorem pc (h : Simulation usable R) (hR : R s t) : t.pc = s.pc := by
  simp only [State.pc, h.ip hR]

theorem fetch (h : Simulation usable R) (hR : R s t) : Machine.fetch t = Machine.fetch s :=
  fetch_congr (h.program hR) (h.idxIp hR) (h.ip hR)

theorem rd (h : Simulation usable R) (hR : R s t) {r : Ref} (hr : usable r) (pos : Fin 2) :
    Machine.rd pos r t = Machine.rd pos r s := by
  cases r with
  | absent => rfl
  | registerSlot i =>
    by_cases hi : i < 17
    · simp only [Machine.rd, hi, dite_true, h.reg (i := ⟨i, hi⟩) hR hr]
    · simp only [Machine.rd, hi, dite_false]
  | memoryCell c =>
    simp only [Machine.rd, h.memCells hR]
    split
    · next hc => rw [h.memRead hR hc]
    · rfl

theorem wrFault (h : Simulation usable R) (hR : R s t) (r : Ref) (pos : Fin 2) :
    Machine.wrFault pos r t = Machine.wrFault pos r s := by
  simp only [Machine.wrFault, h.memCells hR]

theorem readIp (h : Simulation usable R) (hR : R s t) : Machine.readIp t = Machine.readIp s := by
  simp only [Machine.readIp, h.ip hR, h.idxIp hR]

theorem popRead (h : Simulation usable R) (hR : R s t) : Machine.popRead t = Machine.popRead s := by
  simp only [Machine.popRead, h.sp hR, h.idxSp hR, h.memCells hR]
  split
  · rfl
  · split
    · rfl
    · next hc => rw [h.memRead hR (Nat.lt_of_not_le hc)]

/-! The writes and the body shapes keep the relation. -/

theorem setSp (h : Simulation usable R) (x : Slot) (hR : R s t) : R (s.setSp x) (t.setSp x) := by
  rw [State.setSp, State.setSp, h.idxSp hR]
  exact h.setReg x hR (h.usable_sp hR)

theorem setPc (h : Simulation usable R) (v : Word) (hR : R s t) : R (s.setPc v) (t.setPc v) := by
  rw [State.setPc, State.setPc, h.idxIp hR]
  exact h.setReg _ hR (h.usable_ip hR)

theorem advance (h : Simulation usable R) (hR : R s t) : R s.advance t.advance := by
  rw [State.advance, State.advance, h.pc hR]
  exact h.setPc _ hR

theorem takeFault (h : Simulation usable R) (f : Fault) (hR : R s t) : R (s.takeFault f) (t.takeFault f) := by
  rw [State.takeFault, State.takeFault, h.pc hR]
  exact h.setStatus _ hR

theorem assign (h : Simulation usable R) (v : Word) (hR : R s t) {r : Ref} (hr : usable r) :
    R (s.assign r v) (t.assign r v) := by
  cases r with
  | absent => exact hR
  | memoryCell c => exact h.memWrite c v hR
  | registerSlot i =>
    by_cases hi : i < 17
    · simp only [State.assign, hi, dite_true]
      exact h.setReg (i := ⟨i, hi⟩) _ hR hr
    · simpa only [State.assign, hi, dite_false] using hR

theorem wr (h : Simulation usable R) (v : Word) (hR : R s t) {r : Ref} (hr : usable r) (pos : Fin 2) :
    AnswersAlike R (Machine.wr pos r v s) (Machine.wr pos r v t) := by
  simp only [Machine.wr, h.wrFault hR]
  split
  · exact .error _
  · exact .ok (h.assign v hR hr)

theorem pushWord (h : Simulation usable R) (v : Word) (hR : R s t) :
    AnswersAlike R (Machine.pushWord v s) (Machine.pushWord v t) := by
  simp only [Machine.pushWord, h.sp hR, h.idxSp hR, h.stackLimit hR]
  split
  · exact .error _
  · split
    · exact .error _
    · exact .ok (h.memWrite _ _ (h.setSp _ hR))

theorem popAdvance (h : Simulation usable R) (hR : R s t) :
    AnswersAlike R (Machine.popAdvance s) (Machine.popAdvance t) := by
  simp only [Machine.popAdvance, h.sp hR, h.idxSp hR]
  split
  · exact .error _
  · exact .ok (h.setSp _ hR)

theorem transfer (h : Simulation usable R) (hR : R s t) {r : Ref} (hr : usable r) :
    AnswersAlike R (Machine.transfer r s) (Machine.transfer r t) := by
  simp only [Machine.transfer, h.rd hR hr]
  exact .bind_same _ fun v => .ok (h.setPc _ hR)

theorem jumpBody (h : Simulation usable R) (hR : R s t) {r : Ref} (hr : usable r) (c : Bool) :
    AnswersAlike R (Machine.jumpBody c r s) (Machine.jumpBody c r t) := by
  cases c with
  | true => exact h.transfer hR hr
  | false => exact .ok hR

theorem unaryBody (h : Simulation usable R) (hR : R s t) {r : Ref} (hr : usable r) (g : Word → Word) :
    AnswersAlike R (Machine.unaryBody g r s) (Machine.unaryBody g r t) := by
  simp only [Machine.unaryBody, h.rd hR hr]
  exact .bind_same _ fun a => h.wr _ hR hr 0

theorem binaryBody (h : Simulation usable R) (hR : R s t) {r0 r1 : Ref} (h0 : usable r0) (h1 : usable r1)
    (g : Word → Word → Except Fault Word) :
    AnswersAlike R (Machine.binaryBody g r0 r1 s) (Machine.binaryBody g r0 r1 t) := by
  simp only [Machine.binaryBody, h.rd hR h0, h.rd hR h1]
  exact .bind_same _ fun a => .bind_same _ fun b => .bind_same _ fun v => h.wr v hR h0 0

theorem popBody (h : Simulation usable R) (hR : R s t) {r : Ref} (hr : usable r) :
    AnswersAlike R (Machine.popBody r s) (Machine.popBody r t) := by
  simp only [Machine.popBody, h.popRead hR]
  exact .bind_same _ fun v => (h.wr v hR hr 0).bind h.popAdvance

/-- Every body answers alike on the two sides, if the references it names are usable. -/
theorem bodyOf (h : Simulation usable R) (hR : R s t) {i : Instr} (hops : ∀ r ∈ i.operands, usable r) :
    AnswersAlike R (Machine.bodyOf i s) (Machine.bodyOf i t) := by
  cases i with
  | nop | int => exact .ok hR
  | sentinel => exact .ok (h.setStatus _ hR)
  | mov a b =>
    simp only [Machine.bodyOf, h.rd hR (hops b (.tail _ (.head _)))]
    exact .bind_same _ fun v => h.wr v hR (hops a (.head _)) 0
  | push a =>
    simp only [Machine.bodyOf, h.rd hR (hops a (.head _))]
    exact .bind_same _ fun v => h.pushWord v hR
  | pushf =>
    simp only [Machine.bodyOf, h.flags hR]
    exact h.pushWord _ hR
  | pop a | popf a => exact h.popBody hR (hops a (.head _))
  | inc a | dec a | not a => exact h.unaryBody hR (hops a (.head _)) _
  | add a b | sub a b | mul a b | div a b | xor a b | or a b | and a b | shl a b | shr a b =>
    exact h.binaryBody hR (hops a (.head _)) (hops b (.tail _ (.head _))) _
  | rem a =>
    simp only [Machine.bodyOf, h.rem hR]
    exact h.wr _ hR (hops a (.head _)) 0
  | mod a b =>
    simp only [Machine.bodyOf, h.rd hR (hops a (.head _)), h.rd hR (hops b (.tail _ (.head _)))]
    exact .bind_same _ fun x => .bind_same _ fun y => .bind_same _ fun v => .ok (h.setRem v hR)
  | cmp a b =>
    simp only [Machine.bodyOf, h.rd hR (hops a (.head _)), h.rd hR (hops b (.tail _ (.head _)))]
    exact .bind_same _ fun x => .bind_same _ fun y => .ok (h.setFlags _ hR)
  | jmp a => exact h.transfer hR (hops a (.head _))
  | je a | jne a | jg a | jge a | jl a | jle a =>
    simp only [Machine.bodyOf, h.flags hR]
    exact h.jumpBody hR (hops a (.head _)) _
  | call a =>
    simp only [Machine.bodyOf, h.readIp hR]
    exact .bind_same _ fun v => (h.pushWord v hR).bind fun hR' => h.transfer hR' (hops a (.head _))
  | ret =>
    simp only [Machine.bodyOf, h.popRead hR]
    exact .bind_same _ fun v => h.popAdvance (h.setPc v hR)
  | prn a =>
    simp only [Machine.bodyOf, h.rd hR (hops a (.head _))]
    exact .bind_same _ fun v => .ok (h.emit v hR)

/-- A step on one side is matched by a step on the other. -/
theorem step (h : Simulation usable R) (hR : R s t)
    (hops : ∀ i, Machine.fetch s = .ok i → ∀ r ∈ i.operands, usable r) {s' : State} (hs : Machine.step s = .next s') :
    ∃ t', Machine.step t = .next t' ∧ R s' t' := by
  obtain ⟨hrun, hcases⟩ := step_next hs
  have hrun' : t.status = .running := (h.status hR).trans hrun
  have hfetch : Machine.fetch t = Machine.fetch s := h.fetch hR
  rcases hcases with ⟨f, hf, rfl⟩ | ⟨i, f, hf, hb, rfl⟩ | ⟨i, u, hf, hb, hu, rfl⟩ | ⟨i, u, hf, hb, hu, rfl⟩
  · exact ⟨_, step_of_fetch_error hrun' (hfetch.trans hf), h.takeFault f hR⟩
  · have hb' := (h.bodyOf hR (hops i hf)).error_left hb
    exact ⟨_, step_of_bodyOf_error hrun' (hfetch.trans hf) hb', h.takeFault f hR⟩
  · obtain ⟨u', hb', hR'⟩ := (h.bodyOf hR (hops i hf)).ok_left hb
    have hu' : u'.status = .running := (h.status hR').trans hu
    exact ⟨_, step_of_exec_running hrun' (hfetch.trans hf) (exec_of_ok hb') hu', h.advance hR'⟩
  · obtain ⟨u', hb', hR'⟩ := (h.bodyOf hR (hops i hf)).ok_left hb
    have hu' : u'.status ≠ .running := fun hr => hu ((h.status hR').symm.trans hr)
    exact ⟨_, step_of_exec_stopped hrun' (hfetch.trans hf) (exec_of_ok hb') hu', hR'⟩

end Simulation

/-- A step that does not answer a state is that of a core that is not Running. -/
theorem step_not_next {s : State} (h : ∀ t, step s ≠ .next t) :
    (s.status = .halted ∧ step s = .refused .notRunning) ∨ ∃ f j, s.status = .faulted f j ∧ step s = .fault f := by
  cases hs : s.status with
  | running =>
    cases hf : fetch s with
    | error f => exact absurd (step_of_fetch_error hs hf) (h _)
    | ok i =>
      by_cases ht : (execState i s).status = .running
      · exact absurd (step_of_exec_running hs hf (exec_eq_next i s) ht) (h _)
      · exact absurd (step_of_exec_stopped hs hf (exec_eq_next i s) ht) (h _)
  | halted => exact .inl ⟨rfl, step_of_halted hs⟩
  | faulted f j => exact .inr ⟨f, j, rfl, step_of_faulted hs⟩

/-! The byte order. -/

/-- The state with its block held in another byte order. -/
def State.withBlock (s : State) (o : ByteOrder) (m : Memory) : State :=
  { s with cfg := { s.cfg with byteOrder := o }, mem := m }

theorem sameCells_iff {s t : State} :
    SameCells s t ↔ ∃ o m, t = s.withBlock o m ∧ ∀ c, c < s.cfg.memCells → m.readCell o c = s.memRead c := by
  constructor
  · rintro ⟨ht, hm⟩
    exact ⟨t.cfg.byteOrder, t.mem, ht, hm⟩
  · rintro ⟨o, m, rfl, hm⟩
    exact ⟨rfl, hm⟩

/-- Two views of one block are a simulation through every reference: a cell is read and written whole. -/
theorem simulation_sameCells : Simulation (fun _ => True) SameCells where
  cfg := fun ⟨ht, _⟩ => ⟨_, (congrArg State.cfg ht :)⟩
  program := fun ⟨ht, _⟩ => (congrArg State.program ht :)
  status := fun ⟨ht, _⟩ => (congrArg State.status ht :)
  flags := fun ⟨ht, _⟩ => (congrArg State.flags ht :)
  rem := fun ⟨ht, _⟩ => (congrArg State.rem ht :)
  usable_sp _ := trivial
  usable_ip _ := trivial
  reg := fun ⟨ht, _⟩ _ => (congrArg (State.reg · _) ht :)
  memRead := fun ⟨_, hm⟩ => hm _
  setReg x h _ := by
    obtain ⟨o, m, rfl, hm⟩ := sameCells_iff.mp h
    exact sameCells_iff.mpr ⟨o, m, rfl, hm⟩
  memWrite c v h := by
    obtain ⟨o, m, rfl, hm⟩ := sameCells_iff.mp h
    refine sameCells_iff.mpr ⟨o, m.writeCell o c v, rfl, fun d hd => ?_⟩
    rw [Memory.readCell_writeCell, State.memRead_memWrite, hm d hd]
  setFlags f h := by
    obtain ⟨o, m, rfl, hm⟩ := sameCells_iff.mp h
    exact sameCells_iff.mpr ⟨o, m, rfl, hm⟩
  setRem v h := by
    obtain ⟨o, m, rfl, hm⟩ := sameCells_iff.mp h
    exact sameCells_iff.mpr ⟨o, m, rfl, hm⟩
  emit v h := by
    obtain ⟨o, m, rfl, hm⟩ := sameCells_iff.mp h
    exact sameCells_iff.mpr ⟨o, m, rfl, hm⟩
  setStatus x h := by
    obtain ⟨o, m, rfl, hm⟩ := sameCells_iff.mp h
    exact sameCells_iff.mpr ⟨o, m, rfl, hm⟩

/-- Settles O10: the two views simulate each other's steps, and where there is no step the status, which is the same, decides. -/
theorem byteOrderIsNotObservable : Obligations.ByteOrderIsNotObservable := by
  unfold Obligations.ByteOrderIsNotObservable
  intro s t h
  have hstatus : t.status = s.status := simulation_sameCells.status h
  refine ⟨fun s' hs => simulation_sameCells.step h (fun _ _ _ _ => trivial) hs, fun f hs => ?fault, fun r hs => ?refused⟩
  case fault =>
    rcases step_not_next (s := s) (by simp [hs]) with ⟨_, hs'⟩ | ⟨g, j, hg, hs'⟩
    · cases hs.symm.trans hs'
    · cases hs.symm.trans hs'
      exact step_of_faulted (hstatus.trans hg)
  case refused =>
    rcases step_not_next (s := s) (by simp [hs]) with ⟨hh, hs'⟩ | ⟨g, j, _, hs'⟩
    · cases hs.symm.trans hs'
      exact step_of_halted (hstatus.trans hh)
    · cases hs.symm.trans hs'

/-! The stack base. -/

/-- `t` is `s` with `x` in slot `j`, which is neither `sp` nor `ip`. -/
def HoldsInstead (j : Fin 17) (x : Slot) (s t : State) : Prop :=
  s.cfg.idxSp ≠ j ∧ s.cfg.idxIp ≠ j ∧ t = s.setReg j x

theorem State.setReg_comm (s : State) {i j : Fin 17} (x y : Slot) (h : i ≠ j) :
    (s.setReg i x).setReg j y = (s.setReg j y).setReg i x := by
  refine State.ext_reg rfl rfl (fun k => ?_) rfl rfl rfl rfl rfl
  simp only [State.reg_setReg]
  split
  · next hj => rw [if_neg fun hi => h (hi.trans hj.symm)]
  · rfl

/-- Another value in a slot that is neither `sp` nor `ip` is a simulation through the references that do not name the slot. -/
theorem simulation_holdsInstead (j : Fin 17) (x : Slot) :
    Simulation (fun r => r ≠ .registerSlot j) (HoldsInstead j x) where
  cfg := fun ⟨_, _, ht⟩ => ⟨_, (congrArg State.cfg ht :)⟩
  program := fun ⟨_, _, ht⟩ => (congrArg State.program ht :)
  status := fun ⟨_, _, ht⟩ => (congrArg State.status ht :)
  flags := fun ⟨_, _, ht⟩ => (congrArg State.flags ht :)
  rem := fun ⟨_, _, ht⟩ => (congrArg State.rem ht :)
  usable_sp := fun ⟨hsp, _, _⟩ h => hsp (Fin.ext (Ref.registerSlot.inj h))
  usable_ip := fun ⟨_, hip, _⟩ h => hip (Fin.ext (Ref.registerSlot.inj h))
  reg := fun ⟨_, _, ht⟩ hi => by rw [ht, State.reg_setReg_of_ne _ _ fun h => hi (by rw [h])]
  memRead := fun ⟨_, _, ht⟩ _ => (congrArg (State.memRead · _) ht :)
  setReg y := fun ⟨hsp, hip, ht⟩ hi => ⟨hsp, hip, by rw [ht, State.setReg_comm _ _ _ fun h => hi (by rw [h])]⟩
  memWrite c v := fun ⟨hsp, hip, ht⟩ => ⟨hsp, hip, congrArg (State.memWrite · c v) ht⟩
  setFlags f := fun ⟨hsp, hip, ht⟩ => ⟨hsp, hip, congrArg (State.setFlags · f) ht⟩
  setRem v := fun ⟨hsp, hip, ht⟩ => ⟨hsp, hip, congrArg (State.setRem · v) ht⟩
  emit v := fun ⟨hsp, hip, ht⟩ => ⟨hsp, hip, congrArg (State.emit · v) ht⟩
  setStatus y := fun ⟨hsp, hip, ht⟩ => ⟨hsp, hip, congrArg (State.setStatus · y) ht⟩

/-- Settles O53: `sb` is neither `sp` nor `ip`, so a state with another value in it simulates the step. -/
theorem stackBaseIsNeverUsed : Obligations.StackBaseIsNeverUsed := by
  unfold Obligations.StackBaseIsNeverUsed
  intro s t i x ⟨_, _, _, _, _, hspsb, _, hsbip⟩ hf hops hs
  have hR : HoldsInstead s.cfg.idxSb x s (s.setReg s.cfg.idxSb x) := ⟨hspsb, hsbip.symm, rfl⟩
  have hops' : ∀ j, fetch s = .ok j → ∀ r ∈ j.operands, r ≠ .registerSlot s.cfg.idxSb := by
    intro j hj
    cases hf.symm.trans hj
    exact hops
  obtain ⟨t', ht', _, _, rfl⟩ := (simulation_holdsInstead s.cfg.idxSb x).step hR hops' hs
  exact ht'

end Sys2Proof.Machine

/-! The statements about every instruction and every step: what a step keeps of a well-formed state (spec/10_state.md R21 to R30,
spec/42_stack.md R147), what an instruction may write (spec/10_state.md R28, spec/20_memory.md R55), and that no address is made.
Each is proved once per effect of a completed body (`BodyEffect`); a fault taken changes the status only. -/

namespace Sys2Proof.Machine

/-! Well-formed states: what the reserved slots hold, and which updates keep the invariant. -/

/-- The capacity of the stack is what lies between its limit and the end of the block (spec/00_scope.md R6). -/
theorem Config.stackLimit_add_stackCells {c : Config} (h : c.wf) : c.stackLimit + c.stackCells = c.memCells := by
  obtain ⟨_, _, _, _, hle, _⟩ := h
  have hcells : c.stackCells ≤ c.memCells := Nat.div_le_div_right hle
  rw [Config.stackLimit]
  omega

/-- The bytes of a cell of the block lie in the block (spec/20_memory.md R50). -/
theorem Config.byte_lt_memBytes {c : Config} (h : c.wf) {d b : Nat} (hd : d < c.memCells) (hb : b < 4 * d + 4) :
    b < c.memBytes := by
  obtain ⟨hdvd, _⟩ := h
  have hcells : c.memCells * 4 = c.memBytes := Nat.div_mul_cancel hdvd
  omega

/-- An address in `sp` lies in the stack region or is its end (spec/10_state.md R24). -/
theorem State.wf.sp_bounds {s : State} (h : s.wf) {a : Nat} (ha : s.sp = .addr a) :
    s.cfg.stackLimit ≤ a ∧ a ≤ s.cfg.memCells := by
  obtain ⟨⟨_, _, _, _, _, hne, _⟩, hslots, _⟩ := h
  have hok : slotOk s.cfg s.cfg.idxSp (.addr a) = true := ha ▸ hslots s.cfg.idxSp
  simpa [slotOk, hne] using hok

/-- `sp` and `ip` are two slots (spec/00_scope.md R6). -/
theorem Config.idxSp_ne_idxIp {c : Config} (h : c.wf) : c.idxSp ≠ c.idxIp := by
  obtain ⟨_, _, _, _, _, _, hne, _⟩ := h
  exact hne

theorem slotOk_int (c : Config) (i : Fin 17) (v : Word) : slotOk c i (.int v) = true := rfl

theorem slotOk_idxSp {c : Config} {a : Nat} (hlo : c.stackLimit ≤ a) (hhi : a ≤ c.memCells) :
    slotOk c c.idxSp (.addr a) = true := by
  simp [slotOk, hlo, hhi]

theorem State.wf.setReg {s : State} (h : s.wf) {i : Fin 17} {x : Slot} (hx : slotOk s.cfg i x = true) :
    (s.setReg i x).wf := by
  obtain ⟨hcfg, hslots, hflags, hmem, hblock⟩ := h
  refine ⟨hcfg, fun j => ?_, hflags, hmem, hblock⟩
  rw [State.reg_setReg]
  split
  · next hij => exact hij ▸ hx
  · exact hslots j

theorem State.wf.setPc {s : State} (h : s.wf) (v : Word) : (s.setPc v).wf :=
  h.setReg (slotOk_int _ _ v)

theorem State.wf.setSp {s : State} (h : s.wf) {a : Nat} (hlo : s.cfg.stackLimit ≤ a) (hhi : a ≤ s.cfg.memCells) :
    (s.setSp (.addr a)).wf :=
  h.setReg (slotOk_idxSp hlo hhi)

theorem State.wf.memWrite {s : State} (h : s.wf) {c : Nat} (hc : c < s.cfg.memCells) (v : Word) :
    (s.memWrite c v).wf := by
  obtain ⟨hcfg, hslots, hflags, hmem, hblock⟩ := h
  refine ⟨hcfg, hslots, hflags, Memory.wf_writeCell hmem .., fun b hb => ?_⟩
  rcases Memory.mem_writeCell hb with ⟨_, hlt⟩ | hb
  · exact Config.byte_lt_memBytes hcfg hc hlt
  · exact hblock b hb

theorem State.wf.assign {s : State} (h : s.wf) {r : Ref} (hr : r.valid s.cfg.memCells = true) (v : Word) :
    (s.assign r v).wf := by
  rcases s.assign_cases r v with he | ⟨i, _, he⟩ | ⟨c, rfl, he⟩ <;> rw [he]
  · exact h
  · exact h.setReg (slotOk_int _ _ v)
  · exact h.memWrite (of_decide_eq_true hr) v

theorem State.wf.setFlags {s : State} (h : s.wf) {f : BitVec 2} (hf : f ≠ 3) : (s.setFlags f).wf := by
  obtain ⟨hcfg, hslots, _, hmem, hblock⟩ := h
  exact ⟨hcfg, hslots, hf, hmem, hblock⟩

theorem State.wf.setStatus {s : State} (h : s.wf) (x : Status) : (s.setStatus x).wf := h

theorem State.wf.takeFault {s : State} (h : s.wf) (f : Fault) : (s.takeFault f).wf := h

theorem State.wf.advance {s : State} (h : s.wf) : s.advance.wf := h.setPc _

/-- A push from a well-formed state goes to a cell of the stack region (spec/42_stack.md R140). -/
theorem State.wf.push {s : State} (h : s.wf) {a : Nat} (ha : s.sp = .addr a) (hlim : s.cfg.stackLimit < a) (v : Word) :
    ((s.setSp (.addr (a - 1))).memWrite (a - 1) v).wf := by
  obtain ⟨_, hhi⟩ := h.sp_bounds ha
  exact (h.setSp (by omega) (by omega)).memWrite (show a - 1 < s.cfg.memCells by omega) v

/-- After `pc` takes the return index `sp` holds what it held, in a state where the two are distinct slots. -/
theorem sp_of_sp_setPc {s : State} (h : s.cfg.wf) {v : Word} {a b : Nat} (ha : s.sp = .addr a)
    (hb : (s.setPc v).sp = .addr b) : b = a := by
  rw [State.sp_setPc s v (Config.idxSp_ne_idxIp h), ha] at hb
  cases hb
  rfl

/-- A completed body keeps a state well formed. -/
theorem BodyEffect.wf {i : Instr} {s t : State} (h : BodyEffect s i t) (hs : s.wf) : t.wf := by
  cases h with
  | same => exact hs
  | assign _ _ hv => exact hs.assign hv _
  | push _ _ hsp hlim => exact hs.push hsp hlim _
  | pop _ _ hsp hlt hv _ =>
    obtain ⟨hlo, _⟩ := hs.sp_bounds hsp
    exact (hs.assign hv _).setSp (by rw [State.assign_cfg]; omega) (by rw [State.assign_cfg]; omega)
  | setRem => exact hs
  | setFlags => exact hs.setFlags (compareFlags_ne_three _ _)
  | emit => exact hs
  | jump => exact hs.setPc _
  | call _ hsp hlim => exact (hs.push hsp hlim _).setPc _
  | ret hsp hlt hsp' =>
    obtain ⟨hlo, _⟩ := hs.sp_bounds hsp
    obtain rfl := sp_of_sp_setPc hs.1 hsp hsp'
    exact (hs.setPc _).setSp (show s.cfg.stackLimit ≤ _ by omega) (show _ ≤ s.cfg.memCells by omega)
  | halt => exact hs

/-- Settles O49: every effect of a completed body keeps the invariant, and so do the advance and a fault taken. -/
theorem everyStepKeepsTheStateWellFormed : Obligations.EveryStepKeepsTheStateWellFormed := by
  unfold Obligations.EveryStepKeepsTheStateWellFormed
  intro s t hs h
  rcases (step_next h).2 with ⟨f, _, rfl⟩ | ⟨i, f, _, _, rfl⟩ | ⟨i, u, _, hb, _, rfl⟩ | ⟨i, u, _, hb, _, rfl⟩
  · exact hs.takeFault f
  · exact hs.takeFault f
  · exact ((bodyOf_effect hb).wf hs).advance
  · exact (bodyOf_effect hb).wf hs

end Sys2Proof.Machine

namespace Sys2Proof.Machine

/-! The frame of every instruction (spec/10_state.md R28, spec/20_memory.md R55). -/

theorem State.byteView_memWrite_of_outside (s : State) {c : Nat} (v : Word) {a : Nat} (h : a < 4 * c ∨ 4 * c + 4 ≤ a) :
    (s.memWrite c v).byteView a = s.byteView a :=
  Memory.byteAt_writeCell_of_outside _ _ _ _ _ h

/-- A byte outside the cell that the unchecked write names, if it names one. -/
theorem State.byteView_assign_of_outside (s : State) {r : Ref} (v : Word) {a : Nat}
    (h : ∀ c, r = .memoryCell c → a < 4 * c ∨ 4 * c + 4 ≤ a) : (s.assign r v).byteView a = s.byteView a := by
  rcases s.assign_cases r v with he | ⟨i, _, he⟩ | ⟨c, hr, he⟩ <;> rw [he]
  · rfl
  · exact s.byteView_memWrite_of_outside v (h c hr)

theorem destOperand_of_pushes {i : Instr} (h : pushes i = true) : destOperand i = none := by
  cases i with
  | push | pushf | call => rfl
  | _ => cases h

theorem pops_of_pushes {i : Instr} (h : pushes i = true) : pops i = false := by
  cases i with
  | push | pushf | call => rfl
  | _ => cases h

theorem pushes_of_pops {i : Instr} (h : pops i = true) : pushes i = false := by
  by_contra hp
  cases h.symm.trans (pops_of_pushes (by simpa using hp))

theorem storedCell_of_destOperand {i : Instr} {c : Nat} (s : State) (h : destOperand i = some (.memoryCell c)) :
    storedCell i s = some c := by
  simp only [storedCell, h]

theorem storedCell_of_pushes {i : Instr} {s : State} {a : Nat} (h : pushes i = true) (hsp : s.sp = .addr a) :
    storedCell i s = some (a - 1) := by
  simp only [storedCell, destOperand_of_pushes h, h, hsp, if_true]

theorem mayWriteSlot_eq_false {c : Config} {i : Instr} {j : Fin 17} :
    mayWriteSlot c i j = false ↔
      destOperand i ≠ some (.registerSlot j) ∧ (pushes i = true ∨ pops i = true → c.idxSp ≠ j) ∧
      (writesIp i = true → c.idxIp ≠ j) := by
  simp [mayWriteSlot, and_assoc, @eq_comm _ j]

/-- A slot that the instruction may not write (spec/10_state.md R28). -/
theorem BodyEffect.reg_of_not_mayWriteSlot {i : Instr} {s t : State} (h : BodyEffect s i t) {j : Fin 17}
    (hj : mayWriteSlot s.cfg i j = false) : t.reg j = s.reg j := by
  obtain ⟨hdest, hsp, hip⟩ := mayWriteSlot_eq_false.mp hj
  cases h with
  | same | setRem | setFlags | emit | halt => rfl
  | assign hd => rw [State.reg_assign, if_neg fun he => hdest (by rw [hd, he])]
  | push hp => rw [State.memWrite_reg, State.reg_setSp, if_neg (hsp (.inl hp))]
  | pop hd hp =>
    rw [State.reg_setSp, State.assign_cfg, if_neg (hsp (.inr hp)), State.reg_assign,
      if_neg fun he => hdest (by rw [hd, he])]
  | jump hw => rw [State.reg_setPc, if_neg (hip hw)]
  | call =>
    rw [State.reg_setPc, State.memWrite_cfg, State.setSp_cfg, if_neg (hip rfl), State.memWrite_reg, State.reg_setSp,
      if_neg (hsp (.inl rfl))]
  | ret => rw [State.reg_setSp, State.setPc_cfg, if_neg (hsp (.inr rfl)), State.reg_setPc, if_neg (hip rfl)]

/-- A byte outside the cell that the instruction stores to (spec/20_memory.md R55). -/
theorem BodyEffect.byteView_of_outside {i : Instr} {s t : State} (h : BodyEffect s i t) {a : Nat}
    (ha : ∀ c, storedCell i s = some c → a < 4 * c ∨ 4 * c + 4 ≤ a) : t.byteView a = s.byteView a := by
  have hdest : ∀ r, destOperand i = some r → ∀ c, r = .memoryCell c → a < 4 * c ∨ 4 * c + 4 ≤ a :=
    fun r hr c hc => ha c (storedCell_of_destOperand s (hc ▸ hr))
  cases h with
  | same | setRem | setFlags | emit | jump | ret | halt => rfl
  | assign hd => exact s.byteView_assign_of_outside _ (hdest _ hd)
  | push hp _ hsp => exact (s.setSp _).byteView_memWrite_of_outside _ (ha _ (storedCell_of_pushes hp hsp))
  | pop hd => exact s.byteView_assign_of_outside _ (hdest _ hd)
  | call _ hsp => exact (s.setSp _).byteView_memWrite_of_outside _ (ha _ (storedCell_of_pushes rfl hsp))

theorem BodyEffect.flags {i : Instr} {s t : State} (h : BodyEffect s i t) (hi : ∀ x y, i ≠ .cmp x y) :
    t.flags = s.flags := by
  cases h with
  | setFlags => exact absurd rfl (hi _ _)
  | _ => simp

theorem BodyEffect.rem {i : Instr} {s t : State} (h : BodyEffect s i t) (hi : ∀ x y, i ≠ .mod x y) : t.rem = s.rem := by
  cases h with
  | setRem => exact absurd rfl (hi _ _)
  | _ => simp

theorem BodyEffect.out {i : Instr} {s t : State} (h : BodyEffect s i t) (hi : ∀ x, i ≠ .prn x) : t.out = s.out := by
  cases h with
  | emit => exact absurd rfl (hi _)
  | _ => simp

/-- Settles O50: each effect of a completed body keeps what its instruction may not write; a fault taken keeps all of it. -/
theorem instructionsWriteOnlyTheirFootprint : Obligations.InstructionsWriteOnlyTheirFootprint := by
  unfold Obligations.InstructionsWriteOnlyTheirFootprint
  intro i s t h
  rcases exec_next.mp h with hb | ⟨f, _, rfl⟩
  · have he : BodyEffect s i t := bodyOf_effect hb
    obtain ⟨hcfg, hprogram⟩ := he.cfg_program
    exact ⟨fun j => he.reg_of_not_mayWriteSlot, fun a => he.byteView_of_outside, he.flags, he.rem, he.out, hcfg, hprogram,
      fun hi => .inl (bodyOf_status hb hi)⟩
  · exact ⟨fun j _ => rfl, fun a _ => rfl, fun _ => rfl, fun _ => rfl, fun _ => rfl, rfl, rfl, fun _ => .inr ⟨f, rfl⟩⟩

/-! What a step changes it changes through the body of the instruction it fetched. -/

/-- A field that neither the advance nor a fault taken writes is, after a step, as before it or as a completed body left it. -/
theorem step_field {α : Type} (field : State → α) (hadvance : ∀ u : State, field u.advance = field u)
    (hfault : ∀ (u : State) f, field (u.takeFault f) = field u) {s t : State} (h : step s = .next t) :
    field t = field s ∨ ∃ i u, fetch s = .ok i ∧ bodyOf i s = .ok u ∧ field t = field u := by
  rcases (step_next h).2 with ⟨f, _, rfl⟩ | ⟨i, f, _, _, rfl⟩ | ⟨i, u, hf, hb, _, rfl⟩ | ⟨i, u, hf, hb, _, rfl⟩
  · exact .inl (hfault s f)
  · exact .inl (hfault s f)
  · exact .inr ⟨i, u, hf, hb, hadvance u⟩
  · exact .inr ⟨i, _, hf, hb, rfl⟩

/-- A step that changes `FLAGS` ran a `cmp` (spec/10_state.md R29). -/
theorem fetch_cmp_of_step_flags {s t : State} (h : step s = .next t) (hne : t.flags ≠ s.flags) :
    ∃ a b, fetch s = .ok (.cmp a b) := by
  rcases step_field State.flags State.advance_flags State.takeFault_flags h with he | ⟨i, u, hf, hb, he⟩
  · exact absurd he hne
  · by_contra hi
    exact hne (he.trans ((bodyOf_effect hb).flags fun a b hab => hi ⟨a, b, hab ▸ hf⟩))

/-- A step that changes `REM` ran a `mod` (spec/10_state.md R31). -/
theorem fetch_mod_of_step_rem {s t : State} (h : step s = .next t) (hne : t.rem ≠ s.rem) :
    ∃ a b, fetch s = .ok (.mod a b) := by
  rcases step_field State.rem State.advance_rem State.takeFault_rem h with he | ⟨i, u, hf, hb, he⟩
  · exact absurd he hne
  · by_contra hi
    exact hne (he.trans ((bodyOf_effect hb).rem fun a b hab => hi ⟨a, b, hab ▸ hf⟩))

/-- A step that changes `Out` ran a `prn`, which appended its operand's value (spec/10_state.md R36). -/
theorem fetch_prn_of_step_out {s t : State} (h : step s = .next t) (hne : t.out ≠ s.out) :
    ∃ a v, fetch s = .ok (.prn a) ∧ rd 0 a s = .ok v ∧ t.out = s.out ++ [v] := by
  rcases step_field State.out State.advance_out State.takeFault_out h with he | ⟨i, u, hf, hb, he⟩
  · exact absurd he hne
  · by_cases hi : ∃ a, i = .prn a
    · obtain ⟨a, rfl⟩ := hi
      obtain ⟨v, hv, rfl⟩ := bodyOf_prn_ok.mp hb
      exact ⟨a, v, hf, hv, he⟩
    · exact absurd (he.trans ((bodyOf_effect hb).out fun a ha => hi ⟨a, ha⟩)) hne

theorem step_out {s t : State} (h : step s = .next t) : s.out <+: t.out := by
  by_cases he : t.out = s.out
  · rw [he]
  · obtain ⟨_, v, _, _, ht⟩ := fetch_prn_of_step_out h he
    exact ⟨[v], ht.symm⟩

/-- Settles O51: the clauses about a step are the frame of the fetched instruction's body, and those about a run compose the steps'. -/
theorem onlyCmpModAndPrnWriteFlagsRemAndOut : Obligations.OnlyCmpModAndPrnWriteFlagsRemAndOut := by
  unfold Obligations.OnlyCmpModAndPrnWriteFlagsRemAndOut
  refine ⟨fun k s t h => ?run,
    fun s t h => ⟨fetch_cmp_of_step_flags h, fetch_mod_of_step_rem h, fetch_prn_of_step_out h⟩⟩
  refine run_induction (P := fun s t => t.cfg = s.cfg ∧ t.program = s.program ∧ s.out <+: t.out)
    (fun s => ⟨rfl, rfl, List.prefix_rfl⟩) (fun s u t hu ⟨hc, hp, ho⟩ => ?_) h
  obtain ⟨hc', hp'⟩ := step_cfg_program hu
  exact ⟨hc.trans hc', hp.trans hp', (step_out hu).trans ho⟩

/-! Addresses (spec/10_state.md R24). -/

/-- The slot holds an integer. -/
def State.holdsInt (s : State) (j : Fin 17) : Prop := ∃ v, s.reg j = .int v

theorem State.holdsInt_setReg_int {s : State} {j : Fin 17} (h : s.holdsInt j) (i : Fin 17) (v : Word) :
    (s.setReg i (.int v)).holdsInt j := by
  by_cases hij : i = j
  · exact ⟨v, by rw [hij, State.reg_setReg_self]⟩
  · rwa [State.holdsInt, State.reg_setReg_of_ne s _ hij]

theorem State.holdsInt_assign {s : State} {j : Fin 17} (h : s.holdsInt j) (r : Ref) (v : Word) :
    (s.assign r v).holdsInt j := by
  rcases s.assign_cases r v with he | ⟨i, _, he⟩ | ⟨c, _, he⟩ <;> rw [he]
  · exact h
  · exact State.holdsInt_setReg_int h i v
  · exact h

/-- The stack primitives move `sp` only when it holds an address, so the integer is in another slot. -/
theorem State.holdsInt_setSp {s : State} {j : Fin 17} {a : Nat} (h : s.holdsInt j) (hsp : s.sp = .addr a) (x : Slot) :
    (s.setSp x).holdsInt j := by
  obtain ⟨v, hv⟩ := h
  have hne : s.cfg.idxSp ≠ j := by
    rintro rfl
    cases hsp.symm.trans hv
  exact ⟨v, by rw [State.reg_setSp, if_neg hne, hv]⟩

/-- A write to another slot or to a cell leaves `sp` as it was. -/
theorem State.sp_assign_of_ne (s : State) {r : Ref} (h : r ≠ .registerSlot s.cfg.idxSp) (v : Word) :
    (s.assign r v).sp = s.sp := by
  rw [State.sp, State.assign_cfg, State.reg_assign, if_neg h, State.sp]

theorem BodyEffect.holdsInt {i : Instr} {s t : State} (h : BodyEffect s i t) {j : Fin 17} (hj : s.holdsInt j) :
    t.holdsInt j := by
  cases h with
  | same | setRem | setFlags | emit | halt => exact hj
  | assign => exact State.holdsInt_assign hj _ _
  | push _ _ hsp => exact State.holdsInt_setSp hj hsp _
  | pop _ _ hsp _ _ hne =>
    exact State.holdsInt_setSp (State.holdsInt_assign hj _ _) ((State.sp_assign_of_ne s hne _).trans hsp) _
  | jump => exact State.holdsInt_setReg_int hj _ _
  | call _ hsp => exact State.holdsInt_setReg_int (State.holdsInt_setSp hj hsp _) _ _
  | ret _ _ hsp' => exact State.holdsInt_setSp (State.holdsInt_setReg_int hj _ _) hsp' _

theorem step_holdsInt {s t : State} (h : step s = .next t) {j : Fin 17} (hj : s.holdsInt j) : t.holdsInt j := by
  rcases (step_next h).2 with ⟨f, _, rfl⟩ | ⟨i, f, _, _, rfl⟩ | ⟨i, u, _, hb, _, rfl⟩ | ⟨i, u, _, hb, _, rfl⟩
  · exact hj
  · exact hj
  · exact State.holdsInt_setReg_int ((bodyOf_effect hb).holdsInt hj) _ _
  · exact (bodyOf_effect hb).holdsInt hj

/-- Settles O52: the one operation that writes an address is the move of `sp`, and it needs one there already. -/
theorem addressesAreNeverMade : Obligations.AddressesAreNeverMade := by
  unfold Obligations.AddressesAreNeverMade
  intro k s t j v hv h
  exact run_induction (P := fun s t => s.holdsInt j → t.holdsInt j) (fun s hs => hs)
    (fun s u t hu ih hs => ih (step_holdsInt hu hs)) h ⟨v, hv⟩

/-! The depth of the stack (spec/42_stack.md R147). -/

theorem State.depth_eq_some {s : State} {d : Nat} : s.depth = some d ↔ ∃ a, s.sp = .addr a ∧ d = s.cfg.memCells - a := by
  unfold State.depth
  cases s.sp <;> simp [eq_comm]

theorem State.depth_congr {s t : State} (hc : t.cfg = s.cfg) (hsp : t.sp = s.sp) : t.depth = s.depth := by
  rw [State.depth, State.depth, hc, hsp]

/-- After a push `sp` holds one cell less, after a pop one more, after any other completed body that does not name `sp` as its
destination what it held. -/
theorem BodyEffect.sp_cases {i : Instr} {s t : State} (h : BodyEffect s i t) (hs : s.cfg.wf)
    (hd : destOperand i ≠ some (.registerSlot s.cfg.idxSp)) :
    (pushes i = true ∧ pops i = false ∧ ∃ a, s.sp = .addr a ∧ s.cfg.stackLimit < a ∧ t.sp = .addr (a - 1)) ∨
    (pushes i = false ∧ pops i = true ∧ ∃ a, s.sp = .addr a ∧ a < s.cfg.memCells ∧ t.sp = .addr (a + 1)) ∨
    (pushes i = false ∧ pops i = false ∧ t.sp = s.sp) := by
  have hne : s.cfg.idxSp ≠ s.cfg.idxIp := Config.idxSp_ne_idxIp hs
  cases h with
  | same _ hpush hpop => exact .inr (.inr ⟨hpush, hpop, rfl⟩)
  | assign hd' hpop =>
    have hpush : pushes i = false := by
      by_contra hp
      cases hd'.symm.trans (destOperand_of_pushes (by simpa using hp))
    exact .inr (.inr ⟨hpush, hpop, State.sp_assign_of_ne s (fun he => hd (he ▸ hd')) _⟩)
  | push hp _ hsp hlim => exact .inl ⟨hp, pops_of_pushes hp, _, hsp, hlim, by simp⟩
  | pop _ hp hsp hlt => exact .inr (.inl ⟨pushes_of_pops hp, hp, _, hsp, hlt, by simp⟩)
  | setRem | setFlags | emit | halt => exact .inr (.inr ⟨rfl, rfl, rfl⟩)
  | jump _ hpush hpop => exact .inr (.inr ⟨hpush, hpop, State.sp_setPc s _ hne⟩)
  | call _ hsp hlim =>
    refine .inl ⟨rfl, rfl, _, hsp, hlim, ?_⟩
    rw [State.sp_setPc _ _ (by exact hne), State.memWrite_sp, State.sp_setSp]
  | ret hsp hlt hsp' =>
    obtain rfl := sp_of_sp_setPc hs hsp hsp'
    exact .inr (.inl ⟨rfl, rfl, _, hsp, hlt, by simp⟩)

/-- Settles O25: `sp` moves by one cell, within the bounds that a well-formed state gives it. -/
theorem stackDepthMovesByOne : Obligations.StackDepthMovesByOne := by
  unfold Obligations.StackDepthMovesByOne
  intro i s t d hs hr hdepth h ht hd
  have hb : bodyOf i s = .ok t := by
    rcases exec_next.mp h with hb | ⟨f, _, rfl⟩
    · exact hb
    · cases ht
  have hcfg : t.cfg = s.cfg := (bodyOf_effect hb).cfg_program.1
  have hcells := Config.stackLimit_add_stackCells hs.1
  obtain ⟨b, hb', rfl⟩ := State.depth_eq_some.mp hdepth
  obtain ⟨hlo, hhi⟩ := hs.sp_bounds hb'
  rcases (bodyOf_effect hb).sp_cases hs.1 hd with
    ⟨hpush, hpop, a, ha, hlim, hsp⟩ | ⟨hpush, hpop, a, ha, hlt, hsp⟩ | ⟨hpush, hpop, hsp⟩
  · cases ha.symm.trans hb'
    refine ⟨fun _ => ⟨State.depth_eq_some.mpr ⟨_, hsp, ?_⟩, ?_⟩, by simp [hpop], by simp [hpush]⟩
    · rw [hcfg]
      omega
    · omega
  · cases ha.symm.trans hb'
    refine ⟨by simp [hpush], fun _ => ⟨State.depth_eq_some.mpr ⟨_, hsp, ?_⟩, ?_⟩, by simp [hpop]⟩
    · rw [hcfg]
      omega
    · omega
  · exact ⟨by simp [hpush], by simp [hpop], fun _ _ => (State.depth_congr hcfg hsp).trans hdepth⟩

end Sys2Proof.Machine

/-! The statements about which faults are raised (spec/60_exceptions.md R252, R253; spec/30_encoding.md R91). For each shared operation
the codes it can raise are said once; the codes 3 and 4 come only from a reference that is not valid (spec/30_encoding.md R81). -/

namespace Sys2Proof.Machine

/-- What a used reference can raise: its tag, or, if it is not a valid reference, that it is absent or out of range. -/
def RefFault (memCells : Nat) (r : Ref) (f : Fault) : Prop :=
  f.code = 5 ∨ ((f.code = 3 ∨ f.code = 4) ∧ r.valid memCells = false)

theorem refFault_of_rd_error {pos : Fin 2} {r : Ref} {s : State} {f : Fault} (h : rd pos r s = .error f) :
    RefFault s.cfg.memCells r f := by
  rcases rd_error.mp h with ⟨rfl, rfl⟩ | ⟨i, rfl, hi, rfl⟩ | ⟨i, a, _, _, rfl⟩ | ⟨c, rfl, hc, rfl⟩
  · exact .inr ⟨.inl rfl, rfl⟩
  · exact .inr ⟨.inr rfl, by simpa [Ref.valid] using hi⟩
  · exact .inl rfl
  · exact .inr ⟨.inr rfl, by simpa [Ref.valid] using hc⟩

theorem code_of_wrFault_some {pos : Fin 2} {r : Ref} {s : State} {f : Fault} (h : wrFault pos r s = some f) :
    (f.code = 3 ∨ f.code = 4) ∧ r.valid s.cfg.memCells = false := by
  rcases wrFault_some.mp h with ⟨rfl, rfl⟩ | ⟨i, rfl, hi, rfl⟩ | ⟨c, rfl, hc, rfl⟩
  · exact ⟨.inl rfl, rfl⟩
  · exact ⟨.inr rfl, by simpa [Ref.valid] using hi⟩
  · exact ⟨.inr rfl, by simpa [Ref.valid] using hc⟩

theorem code_of_readIp_error {s : State} {f : Fault} (h : readIp s = .error f) : f.code = 5 := by
  obtain ⟨_, _, rfl⟩ := readIp_error.mp h
  rfl

theorem code_of_pushWord_error {v : Word} {s : State} {f : Fault} (h : pushWord v s = .error f) :
    f.code = 5 ∨ f.code = 8 := by
  rcases pushWord_error.mp h with ⟨_, _, rfl⟩ | ⟨_, _, _, rfl⟩
  · exact .inl rfl
  · exact .inr rfl

theorem code_of_popRead_error {s : State} {f : Fault} (h : popRead s = .error f) : f.code = 5 ∨ f.code = 9 := by
  rcases popRead_error.mp h with ⟨_, _, rfl⟩ | ⟨_, _, _, rfl⟩
  · exact .inl rfl
  · exact .inr rfl

theorem code_of_popAdvance_error {s : State} {f : Fault} (h : popAdvance s = .error f) : f.code = 5 := by
  obtain ⟨_, _, rfl⟩ := popAdvance_error.mp h
  rfl

/-- What the body of `mod` can raise: operand 1 is reached only when operand 0 was read, the divisor only when both were. -/
theorem bodyOf_mod_error {op0 op1 : Ref} {s : State} {f : Fault} :
    bodyOf (.mod op0 op1) s = .error f ↔
      rd 0 op0 s = .error f ∨ (∃ a, rd 0 op0 s = .ok a ∧ rd 1 op1 s = .error f) ∨
      ∃ a, rd 0 op0 s = .ok a ∧ rd 1 op1 s = .ok 0 ∧ f = .divideByZero := by
  simp only [bodyOf, except_bind_error, aluMod_error, reduceCtorEq, and_false, exists_false, or_false]
  constructor
  · rintro (h | ⟨a, ha, h | ⟨b, hb, rfl, rfl⟩⟩)
    · exact .inl h
    · exact .inr (.inl ⟨a, ha, h⟩)
    · exact .inr (.inr ⟨a, ha, hb, rfl⟩)
  · rintro (h | ⟨a, ha, h⟩ | ⟨a, ha, hb, rfl⟩)
    · exact .inl h
    · exact .inr ⟨a, ha, .inl h⟩
    · exact .inr ⟨a, ha, .inr ⟨0, hb, rfl, rfl⟩⟩

/-- What an instruction's body can raise: a fault of a reference it uses, or one of the faults of its own row that no reference
raises. -/
inductive BodyFault (s : State) (i : Instr) (f : Fault) : Prop where
  | ofRef (r : Ref) (hr : r ∈ i.operands) (hf : RefFault s.cfg.memCells r f) (hrow : [3, 4, 5] ⊆ raisableCodes i)
  | ofDestination (r : Ref) (hr : r ∈ i.operands) (hf : (f.code = 3 ∨ f.code = 4) ∧ r.valid s.cfg.memCells = false)
      (hrow : [3, 4] ⊆ raisableCodes i)
  | own (hrow : f.code ∈ raisableCodes i) (hne : f.code ≠ 3 ∧ f.code ≠ 4)

theorem BodyFault.of_rd_error {pos : Fin 2} {r : Ref} {s : State} {i : Instr} {f : Fault} (h : rd pos r s = .error f)
    (hr : r ∈ i.operands) (hrow : [3, 4, 5] ⊆ raisableCodes i) : BodyFault s i f :=
  .ofRef r hr (refFault_of_rd_error h) hrow

theorem BodyFault.of_code {s : State} {i : Instr} {f : Fault} {n : Nat} (h : f.code = n) (hrow : n ∈ raisableCodes i)
    (hne : n ≠ 3 ∧ n ≠ 4) : BodyFault s i f :=
  .own (h ▸ hrow) (h ▸ hne)

theorem BodyFault.of_unaryBody {g : Word → Word} {op0 : Ref} {s : State} {i : Instr} {f : Fault}
    (h : unaryBody g op0 s = .error f) (hr : op0 ∈ i.operands) (hrow : [3, 4, 5] ⊆ raisableCodes i) : BodyFault s i f :=
  .of_rd_error (unaryBody_error.mp h) hr hrow

/-- Both operands can be at fault, or the value function raises a fault of the instruction's own. -/
theorem BodyFault.of_binaryBody {g : Word → Word → Except Fault Word} {op0 op1 : Ref} {s : State} {i : Instr} {f : Fault}
    (h : binaryBody g op0 op1 s = .error f) (hops : i.operands = [op0, op1]) (hrow : [3, 4, 5] ⊆ raisableCodes i)
    (hg : ∀ a b, g a b = .error f → f.code ∈ raisableCodes i ∧ f.code ≠ 3 ∧ f.code ≠ 4) : BodyFault s i f := by
  rcases binaryBody_error.mp h with h | ⟨_, _, h⟩ | ⟨a, b, _, _, h⟩
  · exact .of_rd_error h (by simp [hops]) hrow
  · exact .of_rd_error h (by simp [hops]) hrow
  · obtain ⟨hrow, hne⟩ := hg a b h
    exact .own hrow hne

theorem BodyFault.of_transfer {op0 : Ref} {s : State} {i : Instr} {f : Fault} (h : transfer op0 s = .error f)
    (hr : op0 ∈ i.operands) (hrow : [3, 4, 5] ⊆ raisableCodes i) : BodyFault s i f :=
  .of_rd_error (transfer_error.mp h) hr hrow

theorem BodyFault.of_popBody {op0 : Ref} {s : State} {i : Instr} {f : Fault} (h : popBody op0 s = .error f)
    (hr : op0 ∈ i.operands) (hrow : [3, 4, 5, 9] ⊆ raisableCodes i) : BodyFault s i f := by
  rcases popBody_error.mp h with h | ⟨_, _, h⟩ | ⟨_, _, _, rfl⟩
  · rcases code_of_popRead_error h with hc | hc
    · exact .of_code hc (hrow (by simp)) (by decide)
    · exact .of_code hc (hrow (by simp)) (by decide)
  · exact .ofDestination op0 hr (code_of_wrFault_some h) (List.Subset.trans (by simp) hrow)
  · exact .of_code (n := 5) rfl (hrow (by simp)) (by decide)

/-- Everything a body can raise (spec/60_exceptions.md R253). -/
theorem bodyOf_fault {i : Instr} {s : State} {f : Fault} (h : bodyOf i s = .error f) : BodyFault s i f := by
  cases i with
  | nop | int | sentinel => cases h
  | mov a b =>
    rcases except_bind_error.mp h with h | ⟨v, _, h⟩
    · exact .of_rd_error h (.tail _ (.head _)) (by simp [raisableCodes])
    · exact .ofDestination a (.head _) (code_of_wrFault_some (wr_error.mp h)) (by simp [raisableCodes])
  | rem a => exact .ofDestination a (.head _) (code_of_wrFault_some (wr_error.mp h)) (by simp [raisableCodes])
  | push a =>
    rcases except_bind_error.mp h with h | ⟨v, _, h⟩
    · exact .of_rd_error h (.head _) (by simp [raisableCodes])
    · rcases code_of_pushWord_error h with hc | hc
      · exact .of_code hc (by simp [raisableCodes]) (by decide)
      · exact .of_code hc (by simp [raisableCodes]) (by decide)
  | pushf =>
    rcases code_of_pushWord_error h with hc | hc
    · exact .of_code hc (by simp [raisableCodes]) (by decide)
    · exact .of_code hc (by simp [raisableCodes]) (by decide)
  | pop a | popf a => exact .of_popBody h (.head _) (by simp [raisableCodes])
  | inc a | dec a | not a => exact .of_unaryBody h (.head _) (by simp [raisableCodes])
  | add a b | sub a b | mul a b | xor a b | or a b | and a b => exact .of_binaryBody h rfl (by simp [raisableCodes]) nofun
  | div a b =>
    refine .of_binaryBody h rfl (by simp [raisableCodes]) fun x y he => ?_
    obtain ⟨_, rfl⟩ := aluDiv_error.mp he
    simp [raisableCodes, Fault.code]
  | shl a b =>
    refine .of_binaryBody h rfl (by simp [raisableCodes]) fun x y he => ?_
    obtain ⟨_, rfl⟩ := aluShl_error.mp he
    simp [raisableCodes, Fault.code]
  | shr a b =>
    refine .of_binaryBody h rfl (by simp [raisableCodes]) fun x y he => ?_
    obtain ⟨_, rfl⟩ := aluShr_error.mp he
    simp [raisableCodes, Fault.code]
  | mod a b =>
    rcases bodyOf_mod_error.mp h with h | ⟨_, _, h⟩ | ⟨_, _, _, rfl⟩
    · exact .of_rd_error h (.head _) (by simp [raisableCodes])
    · exact .of_rd_error h (.tail _ (.head _)) (by simp [raisableCodes])
    · exact .of_code (n := 6) rfl (by simp [raisableCodes]) (by decide)
  | cmp a b =>
    rcases bodyOf_cmp_error.mp h with h | ⟨_, _, h⟩
    · exact .of_rd_error h (.head _) (by simp [raisableCodes])
    · exact .of_rd_error h (.tail _ (.head _)) (by simp [raisableCodes])
  | jmp a => exact .of_transfer h (.head _) (by simp [raisableCodes])
  | je a | jne a | jg a | jge a | jl a | jle a =>
    exact .of_rd_error (jumpBody_error.mp h).2 (.head _) (by simp [raisableCodes])
  | call a =>
    rcases except_bind_error.mp h with h | ⟨v, _, h⟩
    · exact .of_code (code_of_readIp_error h) (by simp [raisableCodes]) (by decide)
    rcases except_bind_error.mp h with h | ⟨t, ht, h⟩
    · rcases code_of_pushWord_error h with hc | hc
      · exact .of_code hc (by simp [raisableCodes]) (by decide)
      · exact .of_code hc (by simp [raisableCodes]) (by decide)
    · obtain ⟨b, _, _, rfl⟩ := pushWord_ok.mp ht
      have hf := refFault_of_rd_error (transfer_error.mp h)
      exact .ofRef a (.head _) hf (by simp [raisableCodes])
  | ret =>
    rcases except_bind_error.mp h with h | ⟨v, _, h⟩
    · rcases code_of_popRead_error h with hc | hc
      · exact .of_code hc (by simp [raisableCodes]) (by decide)
      · exact .of_code hc (by simp [raisableCodes]) (by decide)
    · exact .of_code (code_of_popAdvance_error h) (by simp [raisableCodes]) (by decide)
  | prn a => exact .of_rd_error (bodyOf_prn_error.mp h) (.head _) (by simp [raisableCodes])

theorem BodyFault.code_mem_raisableCodes {s : State} {i : Instr} {f : Fault} (h : BodyFault s i f) :
    f.code ∈ raisableCodes i := by
  cases h with
  | ofRef r hr hf hrow => exact hrow (by rcases hf with h | ⟨h | h, _⟩ <;> simp [h])
  | ofDestination r hr hf hrow => exact hrow (by rcases hf with ⟨h | h, _⟩ <;> simp [h])
  | own hrow => exact hrow

/-- The codes 3 and 4 are raised only by references that are not valid. -/
theorem BodyFault.code_of_valid {s : State} {i : Instr} {f : Fault} (h : BodyFault s i f)
    (hv : i.valid s.cfg.memCells = true) : f.code ≠ 3 ∧ f.code ≠ 4 := by
  have hvalid : ∀ r ∈ i.operands, r.valid s.cfg.memCells = true := List.all_eq_true.mp hv
  cases h with
  | ofRef r hr hf =>
    rcases hf with h | ⟨_, hbad⟩
    · simp [h]
    · cases hbad.symm.trans (hvalid r hr)
  | ofDestination r hr hf => cases hf.2.symm.trans (hvalid r hr)
  | own _ hne => exact hne

/-- No instruction's row holds the code of `FetchRange` or of `IllegalOpcode`. -/
theorem two_not_mem_raisableCodes (i : Instr) : 2 ∉ raisableCodes i := by
  cases i <;> simp [raisableCodes]

/-- Settles O44: a core that an instruction leaves Faulted took the fault its body raised. -/
theorem instructionsRaiseOnlyTheirFaults : Obligations.InstructionsRaiseOnlyTheirFaults := by
  unfold Obligations.InstructionsRaiseOnlyTheirFaults
  intro i s t f j hr h ht
  exact (bodyOf_fault (exec_faulted hr h ht).1).code_mem_raisableCodes

/-! Well-formed Programs (spec/30_encoding.md R91). -/

/-- Every record of a well-formed Program decodes to an instruction with valid operands. -/
theorem decode_of_programWf {c : Config} {p : Program} (hp : programWf c p) {w : PackedRecord} (hw : w ∈ p.code) :
    ∃ i, decode w = .ok i ∧ i.valid c.memCells = true := by
  obtain ⟨_, _, _, hok, _⟩ := hp
  have h := hok w hw
  unfold recordOk at h
  split at h
  · next i hi => exact ⟨i, hi, h⟩
  · cases h

theorem mem_code_of_fetchRecord_ok {s : State} {w : PackedRecord} (h : fetchRecord s = .ok w) : w ∈ s.program.code := by
  obtain ⟨_, _, _, hw⟩ := fetchRecord_ok.mp h
  exact List.mem_of_getElem? hw

/-- With a well-formed Program fetch can fail only at the index. -/
theorem code_of_fetch_error {s : State} (hp : programWf s.cfg s.program) {f : Fault} (h : fetch s = .error f) :
    f.code = 1 ∨ f.code = 5 := by
  rcases fetch_error.mp h with h | ⟨w, e, hw, he, rfl⟩
  · rcases fetchRecord_error.mp h with ⟨_, _, rfl⟩ | ⟨_, _, _, rfl⟩
    · exact .inr rfl
    · exact .inl rfl
  · obtain ⟨i, hi, _⟩ := decode_of_programWf hp (mem_code_of_fetchRecord_ok hw)
    cases he.symm.trans hi

theorem valid_of_fetch_ok {s : State} (hp : programWf s.cfg s.program) {i : Instr} (h : fetch s = .ok i) :
    i.valid s.cfg.memCells = true := by
  obtain ⟨w, hw, hi⟩ := fetch_ok.mp h
  obtain ⟨j, hj, hv⟩ := decode_of_programWf hp (mem_code_of_fetchRecord_ok hw)
  cases hi.symm.trans hj
  exact hv

/-- The invariant of a run of a well-formed Program: a fault taken is none of the three that a static check excludes. -/
def NoOperandFault (s : State) : Prop :=
  programWf s.cfg s.program ∧ ∀ f j, s.status = .faulted f j → f.code ≠ 2 ∧ f.code ≠ 3 ∧ f.code ≠ 4

theorem NoOperandFault.step {s t : State} (h : step s = .next t) (hs : NoOperandFault s) : NoOperandFault t := by
  obtain ⟨hp, _⟩ := hs
  obtain ⟨hcfg, hprogram⟩ := step_cfg_program h
  refine ⟨by rw [hcfg, hprogram]; exact hp, fun f j ht => ?_⟩
  rcases (step_faulted h ht).2 with hf | ⟨i, hf, hb⟩
  · rcases code_of_fetch_error hp hf with hc | hc <;> simp [hc]
  · have hfault : BodyFault s i f := bodyOf_fault hb
    refine ⟨fun hc => two_not_mem_raisableCodes i (hc ▸ hfault.code_mem_raisableCodes), hfault.code_of_valid ?_⟩
    exact valid_of_fetch_ok hp hf

/-- Settles O45: every step keeps `NoOperandFault`, and a Running core has it. -/
theorem wellFormedProgramsRaiseNoOperandFaults : Obligations.WellFormedProgramsRaiseNoOperandFaults := by
  unfold Obligations.WellFormedProgramsRaiseNoOperandFaults
  intro s _ hp hr k t f j h ht
  have hs : NoOperandFault s := ⟨hp, fun f j hf => by rw [hr] at hf; cases hf⟩
  have hrun : NoOperandFault s → NoOperandFault t :=
    run_induction (P := fun s t => NoOperandFault s → NoOperandFault t) (fun _ hs => hs)
      (fun _ _ _ hu ih hs => ih (hs.step hu)) h
  exact (hrun hs).2 f j ht

end Sys2Proof.Machine

/-! The statements about operand access and the memory block (spec/00_scope.md R12; spec/20_memory.md R50 to R53). -/

namespace Sys2Proof.Machine

theorem rd_registerSlot_of_int {s : State} {i : Fin 17} {v : Word} (h : s.reg i = .int v) (pos : Fin 2) :
    rd pos (.registerSlot i) s = .ok v :=
  rd_ok.mpr (.inl ⟨i, rfl, h⟩)

theorem rd_registerSlot_of_addr {s : State} {i : Fin 17} {a : Nat} (h : s.reg i = .addr a) (pos : Fin 2) :
    rd pos (.registerSlot i) s = .error (.tagFault i) :=
  rd_error.mpr (.inr (.inr (.inl ⟨i, a, rfl, h, rfl⟩)))

theorem rd_memoryCell_of_lt {s : State} {c : Nat} (h : c < s.cfg.memCells) (pos : Fin 2) :
    rd pos (.memoryCell c) s = .ok (s.memRead c) :=
  rd_memoryCell_ok.mpr ⟨h, rfl⟩

/-- Settles O6: what can be read is given by `rd_ok`, and each fault by its disjunct of `rd_error`. -/
theorem operandReadFollowsTheReference : Obligations.OperandReadFollowsTheReference := by
  unfold Obligations.OperandReadFollowsTheReference
  intro pos s
  refine ⟨rd_error.mpr (.inl ⟨rfl, rfl⟩), fun i hi => ?slotRange, fun i v h => rd_registerSlot_of_int h pos,
    fun i a h => rd_registerSlot_of_addr h pos, fun c hc => rd_memoryCell_of_lt hc pos, fun c hc => ?cellRange⟩
  case slotRange => exact rd_error.mpr (.inr (.inl ⟨i, rfl, hi, rfl⟩))
  case cellRange => exact rd_error.mpr (.inr (.inr (.inr ⟨c, rfl, hc, rfl⟩)))

theorem valid_registerSlot (memCells : Nat) (i : Fin 17) : (Ref.registerSlot i).valid memCells = true := by
  simp [Ref.valid]

theorem valid_memoryCell {memCells c : Nat} (h : c < memCells) : (Ref.memoryCell c).valid memCells = true := by
  simpa [Ref.valid] using h

theorem wr_of_valid {r : Ref} {s : State} (h : r.valid s.cfg.memCells = true) (pos : Fin 2) (v : Word) :
    wr pos r v s = .ok (s.assign r v) :=
  wr_ok.mpr ⟨wrFault_none.mpr h, rfl⟩

/-- Settles O7: a valid reference takes the unchecked write, and each fault is its disjunct of `wrFault_some`. -/
theorem operandWriteFollowsTheReference : Obligations.OperandWriteFollowsTheReference := by
  unfold Obligations.OperandWriteFollowsTheReference
  intro pos v s
  refine ⟨wr_error.mpr (wrFault_some.mpr (.inl ⟨rfl, rfl⟩)), fun i hi => ?slotRange, fun i => ?slot,
    fun c hc => wr_of_valid (valid_memoryCell hc) pos v, fun c hc => ?cellRange⟩
  case slotRange => exact wr_error.mpr (wrFault_some.mpr (.inr (.inl ⟨i, rfl, hi, rfl⟩)))
  case slot => rw [wr_of_valid (valid_registerSlot _ i), State.assign_registerSlot]
  case cellRange => exact wr_error.mpr (wrFault_some.mpr (.inr (.inr ⟨c, rfl, hc, rfl⟩)))

/-- What was written through a valid reference is read back through it. -/
theorem rd_assign_self {r : Ref} {s : State} (h : r.valid s.cfg.memCells = true) (pos : Fin 2) (v : Word) :
    rd pos r (s.assign r v) = .ok v := by
  cases r with
  | absent => cases h
  | registerSlot i =>
    have hi : i < 17 := of_decide_eq_true h
    exact rd_registerSlot_of_int (i := ⟨i, hi⟩) (by rw [State.reg_assign, if_pos rfl]) pos
  | memoryCell c =>
    have hc : c < s.cfg.memCells := of_decide_eq_true h
    exact rd_memoryCell_ok.mpr ⟨by rwa [State.assign_cfg], by rw [State.memRead_assign, if_pos rfl]⟩

/-- Settles O8: a write that answers is the unchecked write through a valid reference, whose frame the lemmas on `assign` give. -/
theorem operandWriteIsReadBackAndChangesNothingElse : Obligations.OperandWriteIsReadBackAndChangesNothingElse := by
  unfold Obligations.OperandWriteIsReadBackAndChangesNothingElse
  intro pos pos' r v s t h
  obtain ⟨hvalid, rfl⟩ := wr_ok.mp h
  refine ⟨rfl, rd_assign_self (wrFault_none.mp hvalid) pos' v, fun j hj => by rw [State.reg_assign, if_neg hj],
    fun a ha => s.byteView_assign_of_outside v ha, ?_⟩
  simp

/-- A cell in the default order is the number whose digits to the base 2^8 are its bytes, lowest first (spec/20_memory.md R53). -/
theorem toNat_cellValue_little (b0 b1 b2 b3 : Byte) :
    (cellValue .little b0 b1 b2 b3).toNat =
      b0.toNat + 2 ^ 8 * b1.toNat + 2 ^ 16 * b2.toNat + 2 ^ 24 * b3.toNat := by
  have happend : (cellValue .little b0 b1 b2 b3).toNat =
      (((b3.toNat <<< 8 ||| b2.toNat) <<< 8 ||| b1.toNat) <<< 8) ||| b0.toNat := by
    simp only [cellValue, BitVec.toNat_append]
  rw [happend, ← Nat.shiftLeft_add_eq_or_of_lt b2.isLt, ← Nat.shiftLeft_add_eq_or_of_lt b1.isLt,
    ← Nat.shiftLeft_add_eq_or_of_lt b0.isLt]
  simp only [Nat.shiftLeft_eq]
  ring

/-- Settles O9: read after write for cells, the bytes a write leaves alone, and the digits of a cell. -/
theorem cellsAreFourBytesOfTheBlock : Obligations.CellsAreFourBytesOfTheBlock := by
  unfold Obligations.CellsAreFourBytesOfTheBlock
  intro s c v
  refine ⟨s.memRead_memWrite_self c v, fun d hd => by rw [State.memRead_memWrite, if_neg hd],
    fun a ha => s.byteView_memWrite_of_outside v ha, fun ho => ?_⟩
  rw [State.memRead, ho]
  exact toNat_cellValue_little _ _ _ _

end Sys2Proof.Machine

/-! The faults of the operands an instruction reads (spec/40_execution_cycle.md R117): every instruction that reads an operand takes the
fault of the first one that cannot be read. -/

namespace Sys2Proof.Machine

/-- The operand an instruction reads before it does anything else, with its position. -/
def firstRead : Instr → Option (Fin 2 × Ref)
  | .mov _ b => some (1, b)
  | .push a | .inc a | .dec a | .not a | .jmp a | .prn a => some (0, a)
  | .add a _ | .sub a _ | .mul a _ | .div a _ | .mod a _ | .xor a _ | .or a _ | .and a _ => some (0, a)
  | .shl a _ | .shr a _ | .cmp a _ => some (0, a)
  | _ => none

/-- The operand an instruction reads after it has read its first one. -/
def secondRead : Instr → Option Ref
  | .add _ b | .sub _ b | .mul _ b | .div _ b | .mod _ b | .xor _ b | .or _ b | .and _ b => some b
  | .shl _ b | .shr _ b | .cmp _ b => some b
  | _ => none

theorem exec_of_firstRead_error {i : Instr} {pos : Fin 2} {r : Ref} {s : State} {f : Fault}
    (hi : firstRead i = some (pos, r)) (h : rd pos r s = .error f) : exec i s = .next (s.takeFault f) := by
  refine exec_of_error ?_
  cases i with
  | mov | push =>
    cases hi
    exact except_bind_error.mpr (.inl h)
  | prn =>
    cases hi
    exact bodyOf_prn_error.mpr h
  | inc | dec | not =>
    cases hi
    exact unaryBody_error.mpr h
  | add | sub | mul | div | xor | or | and | shl | shr =>
    cases hi
    exact binaryBody_error.mpr (.inl h)
  | mod =>
    cases hi
    exact bodyOf_mod_error.mpr (.inl h)
  | cmp =>
    cases hi
    exact bodyOf_cmp_error.mpr (.inl h)
  | jmp =>
    cases hi
    exact transfer_error.mpr h
  | _ => cases hi

theorem exec_of_secondRead_error {i : Instr} {a b : Ref} {s : State} {v : Word} {f : Fault}
    (ha : firstRead i = some (0, a)) (hb : secondRead i = some b) (h0 : rd 0 a s = .ok v) (h1 : rd 1 b s = .error f) :
    exec i s = .next (s.takeFault f) := by
  refine exec_of_error ?_
  cases i with
  | add | sub | mul | div | xor | or | and | shl | shr =>
    cases ha
    cases hb
    exact binaryBody_error.mpr (.inr (.inl ⟨v, h0, h1⟩))
  | mod =>
    cases ha
    cases hb
    exact bodyOf_mod_error.mpr (.inr (.inl ⟨v, h0, h1⟩))
  | cmp =>
    cases ha
    cases hb
    exact bodyOf_cmp_error.mpr (.inr ⟨v, h0, h1⟩)
  | _ => cases hb

/-- The operands' faults of an instruction that reads both: operand 1 is reached only when operand 0 was read. -/
theorem exec_of_operand_error {i : Instr} {op0 op1 : Ref} {s : State} (h0 : firstRead i = some (0, op0))
    (h1 : secondRead i = some op1) :
    (∀ f, rd 0 op0 s = .error f → exec i s = .next (s.takeFault f)) ∧
    (∀ a f, rd 0 op0 s = .ok a → rd 1 op1 s = .error f → exec i s = .next (s.takeFault f)) :=
  ⟨fun _ => exec_of_firstRead_error h0, fun _ _ => exec_of_secondRead_error h0 h1⟩

/-- A conditional jump that fires takes the fault of its target. -/
theorem exec_of_jumpBody_error {i : Instr} {c : Bool} {op0 : Ref} {s : State} {f : Fault}
    (hb : bodyOf i s = jumpBody c op0 s) (hc : c = true) (h : rd 0 op0 s = .error f) :
    exec i s = .next (s.takeFault f) :=
  exec_of_error (hb.trans (jumpBody_error.mpr ⟨hc, h⟩))

/-- A slot other than `sp` after a push. -/
theorem reg_push_of_ne (s : State) {j : Fin 17} (h : s.cfg.idxSp ≠ j) (x : Slot) (c : Nat) (v : Word) :
    ((s.setSp x).memWrite c v).reg j = s.reg j := by
  rw [State.memWrite_reg, State.reg_setSp, if_neg h]

/-- The push leaves an address in every slot that held one: in `sp` the one below, in the others their own. -/
theorem reg_push_of_addr {s : State} {j : Fin 17} {a b : Nat} (hj : s.reg j = .addr a) (c : Nat) (v : Word) :
    ∃ a', ((s.setSp (.addr b)).memWrite c v).reg j = .addr a' := by
  by_cases h : s.cfg.idxSp = j
  · exact ⟨b, by rw [State.memWrite_reg, State.reg_setSp, if_pos h]⟩
  · exact ⟨a, (reg_push_of_ne s h ..).trans hj⟩

/-- Settles O17: a read of such a slot raises `TagFault` at either position, and each instruction takes the fault of the first operand
that cannot be read; after the push of a `call` the slot still holds an address. -/
theorem addressSlotsCannotBeReadAsIntegers : Obligations.AddressSlotsCannotBeReadAsIntegers := by
  unfold Obligations.AddressSlotsCannotBeReadAsIntegers
  intro s j a hj r
  have hrd : ∀ pos, rd pos r s = .error (.tagFault j) := rd_registerSlot_of_addr hj
  refine ⟨fun op i hi => ?first, fun op v hv i hi => ?second, fun h => ?je, fun h => ?jne, fun h => ?jg, fun h => ?jge,
    fun h => ?jl, fun h => ?jle, fun v b hip hsp hlim => ?call⟩
  case first =>
    have hread : ∃ pos, firstRead i = some (pos, r) := by
      revert i
      simp [firstRead]
    obtain ⟨pos, hpos⟩ := hread
    exact exec_of_firstRead_error hpos (hrd pos)
  case second =>
    have hread : firstRead i = some (0, op) ∧ secondRead i = some r := by
      revert i
      simp [firstRead, secondRead]
    obtain ⟨hfirst, hsecond⟩ := hread
    exact exec_of_secondRead_error hfirst hsecond hv (hrd 1)
  case je => exact exec_of_jumpBody_error (bodyOf_je r s) (condE_iff.mpr h) (hrd 0)
  case jne => exact exec_of_jumpBody_error (bodyOf_jne r s) (condNE_iff.mpr h) (hrd 0)
  case jg => exact exec_of_jumpBody_error (bodyOf_jg r s) (condG_iff.mpr h) (hrd 0)
  case jge => exact exec_of_jumpBody_error (bodyOf_jge r s) (condGE_iff.mpr h) (hrd 0)
  case jl => exact exec_of_jumpBody_error (bodyOf_jl r s) (condL_iff.mpr h) (hrd 0)
  case jle => exact exec_of_jumpBody_error (bodyOf_jle r s) (condLE_iff.mpr h) (hrd 0)
  case call =>
    obtain ⟨a', ha'⟩ := reg_push_of_addr (b := b - 1) hj (b - 1) v
    exact exec_of_transfer_error (bodyOf_call_of_push hip hsp hlim) (rd_registerSlot_of_addr ha' 0)

end Sys2Proof.Machine

/-! The statements about `div`, `mod`, `rem`, `shl` and `shr` (spec/43_arithmetic.md R165 to R167; spec/44_logic_shift.md R184, R185,
R187). -/

namespace Sys2Proof.Machine

/-! The truncated quotient and remainder (spec/00_scope.md R10) are core's, and those of words core's signed operations on words. -/

/-- The quotient of the magnitudes with the product of the signs truncates toward zero. -/
theorem tdiv_eq_tdiv (a b : Int) : tdiv a b = a.tdiv b :=
  calc tdiv a b = a.sign * b.sign * (a.tdiv b).natAbs := by rw [tdiv, Int.natAbs_tdiv]; rfl
    _ = (a.tdiv b).sign * (a.tdiv b).natAbs := by
      rw [Int.sign_tdiv]
      split
      · next hlt => rw [Int.natAbs_tdiv, show a.natAbs.div b.natAbs = 0 from Nat.div_eq_of_lt hlt]; simp
      · rfl
    _ = a.tdiv b := Int.sign_mul_natAbs _

theorem tmod_eq_tmod (a b : Int) : tmod a b = a.tmod b := by
  rw [tmod, tdiv_eq_tdiv, Int.tmod_def]

/-- A word is what its number wraps to. -/
theorem wrap32_toInt (v : Word) : wrap32 v.toInt = v := BitVec.ofInt_toInt

theorem toInt_wrap32_tmod (a b : Word) : (wrap32 (tmod a.toInt b.toInt)).toInt = tmod a.toInt b.toInt := by
  rw [tmod_eq_tmod, ← BitVec.toInt_srem, wrap32_toInt]

/-- The quotient of words fits a word but for the one case (decision D12). -/
theorem toInt_wrap32_tdiv {a b : Word} (h : ¬(a.toInt = -2 ^ 31 ∧ b.toInt = -1)) :
    (wrap32 (tdiv a.toInt b.toInt)).toInt = tdiv a.toInt b.toInt := by
  have hne : a ≠ BitVec.intMin 32 ∨ b ≠ -1#32 := by
    by_contra hcontra
    push Not at hcontra
    obtain ⟨rfl, rfl⟩ := hcontra
    exact h (by decide)
  rw [tdiv_eq_tdiv, ← BitVec.toInt_sdiv_of_ne_or_ne a b hne, wrap32_toInt]

/-- Settles O29: core's laws of truncating division, and on words the signed quotient and remainder, which are words. -/
theorem truncatingDivisionIsExact : Obligations.TruncatingDivisionIsExact := by
  unfold Obligations.TruncatingDivisionIsExact
  refine ⟨fun a b hb => ⟨?recompose, ?size, ?sign⟩, fun a b _ => ⟨toInt_wrap32_tmod a b, toInt_wrap32_tdiv, fun ha hb => ?wraps⟩⟩
  case recompose => rw [tdiv_eq_tdiv, tmod_eq_tmod, Int.mul_tdiv_add_tmod]
  case size =>
    rw [tmod_eq_tmod, Int.natAbs_tmod]
    exact Nat.mod_lt _ (Int.natAbs_pos.mpr hb)
  case sign =>
    rw [tmod_eq_tmod, Int.sign_tmod]
    split
    · next hdvd => exact .inl (Int.tmod_eq_zero_of_dvd hdvd)
    · exact .inr rfl
  case wraps =>
    rw [ha, hb]
    decide

/-- What the body of `mod` answers. -/
theorem bodyOf_mod_of_rd_ok {op0 op1 : Ref} {s : State} {a b r : Word} (h0 : rd 0 op0 s = .ok a) (h1 : rd 1 op1 s = .ok b)
    (hr : aluMod a b = .ok r) : bodyOf (.mod op0 op1) s = .ok (s.setRem r) := by
  simp only [bodyOf, h0, h1, hr, except_ok_bind]

theorem bodyOf_div (op0 op1 : Ref) (s : State) : bodyOf (.div op0 op1) s = binaryBody aluDiv op0 op1 s := rfl

theorem bodyOf_shl (op0 op1 : Ref) (s : State) : bodyOf (.shl op0 op1) s = binaryBody aluShl op0 op1 s := rfl

theorem bodyOf_shr (op0 op1 : Ref) (s : State) : bodyOf (.shr op0 op1) s = binaryBody aluShr op0 op1 s := rfl

theorem aluDiv_of_ne_zero (a : Word) {b : Word} (h : b ≠ 0) : aluDiv a b = .ok (wrap32 (a.toInt.tdiv b.toInt)) :=
  aluDiv_ok.mpr ⟨h, by rw [tdiv_eq_tdiv]⟩

theorem aluMod_of_ne_zero (a : Word) {b : Word} (h : b ≠ 0) : aluMod a b = .ok (wrap32 (a.toInt.tmod b.toInt)) :=
  aluMod_ok.mpr ⟨h, by rw [tmod_eq_tmod]⟩

/-- A fault of the value function of an instruction of the binary shape is taken after both operands were read. -/
theorem exec_of_binaryBody_error_value {i : Instr} {g : Word → Word → Except Fault Word} {op0 op1 : Ref} {s : State}
    {a b : Word} {f : Fault} (hb : bodyOf i s = binaryBody g op0 op1 s) (h0 : rd 0 op0 s = .ok a) (h1 : rd 1 op1 s = .ok b)
    (hf : g a b = .error f) : exec i s = .next (s.takeFault f) :=
  exec_of_error (hb.trans (binaryBody_error.mpr (.inr (.inr ⟨a, b, h0, h1, hf⟩))))

/-- Settles O28: `div` is the binary shape with a value function that refuses 0, `mod` the same with `REM` as the destination. -/
theorem divAndModTruncate : Obligations.DivAndModTruncate := by
  unfold Obligations.DivAndModTruncate
  refine fun s op0 op1 => ⟨fun a b h0 h1 hb => ⟨?div, ?mod⟩, fun i hi => ⟨fun a h0 h1 => ?zero, ?operands⟩⟩
  case div => exact exec_of_binaryBody_ok (bodyOf_div op0 op1 s) h0 h1 (aluDiv_of_ne_zero a hb)
  case mod => exact exec_of_ok (bodyOf_mod_of_rd_ok h0 h1 (aluMod_of_ne_zero a hb))
  case zero =>
    simp only [List.mem_cons, List.not_mem_nil, or_false] at hi
    obtain rfl | rfl := hi
    · exact exec_of_binaryBody_error_value (bodyOf_div op0 op1 s) h0 h1 (aluDiv_error.mpr ⟨rfl, rfl⟩)
    · exact exec_of_error (bodyOf_mod_error.mpr (.inr (.inr ⟨a, h0, h1, rfl⟩)))
  case operands =>
    refine exec_of_operand_error ?_ ?_ <;> revert i <;> simp [firstRead, secondRead]

/-- Settles O30: `rem` is the checked write of `REM`. -/
theorem remFetchesTheRemainder : Obligations.RemFetchesTheRemainder := by
  unfold Obligations.RemFetchesTheRemainder
  exact fun s op0 => ⟨fun hv => exec_of_ok (i := .rem op0) (wr_of_valid hv 0 s.rem), fun f hf => exec_of_error (i := .rem op0) hf⟩

/-! Shift counts (spec/44_logic_shift.md R187). -/

theorem toNat_toInt_of_nonneg {n : Word} (h : 0 ≤ n.toInt) : n.toInt.toNat = n.toNat := by
  have hcond := BitVec.toInt_eq_toNat_cond n
  split at hcond <;> omega

theorem aluShl_of_count (a : Word) {n : Word} (hlo : 0 ≤ n.toInt) (hhi : n.toInt ≤ 31) :
    aluShl a n = .ok (wrap32 (a.toInt * 2 ^ n.toInt.toNat)) :=
  aluShl_ok.mpr ⟨hlo, hhi, by rw [toNat_toInt_of_nonneg hlo]⟩

/-- The floor of the quotient by a power of two is the word shifted with its sign (decision D14). -/
theorem toInt_sshiftRight_eq_div (a : Word) (k : Nat) : (a.sshiftRight k).toInt = a.toInt / 2 ^ k := by
  rw [BitVec.toInt_sshiftRight, Int.shiftRight_eq_div_pow, Nat.cast_pow, Nat.cast_ofNat]

theorem aluShr_of_count (a : Word) {n : Word} (hlo : 0 ≤ n.toInt) (hhi : n.toInt ≤ 31) :
    aluShr a n = .ok (a.sshiftRight n.toInt.toNat) := by
  refine aluShr_ok.mpr ⟨hlo, hhi, ?_⟩
  rw [Int.fdiv_eq_ediv_of_nonneg _ (by positivity), ← toInt_sshiftRight_eq_div, wrap32_toInt, toNat_toInt_of_nonneg hlo]

/-- Settles O32: both shifts are the binary shape with a value function that refuses counts outside 0..31. -/
theorem shiftsScaleByPowersOfTwo : Obligations.ShiftsScaleByPowersOfTwo := by
  unfold Obligations.ShiftsScaleByPowersOfTwo
  refine fun s op0 op1 => ⟨fun a n h0 h1 hlo hhi => ⟨?shl, a.sshiftRight n.toInt.toNat, toInt_sshiftRight_eq_div a _, ?shr⟩,
    fun i hi => ⟨fun a n h0 h1 hn => ?count, ?operands⟩⟩
  case shl => exact exec_of_binaryBody_ok (bodyOf_shl op0 op1 s) h0 h1 (aluShl_of_count a hlo hhi)
  case shr => exact exec_of_binaryBody_ok (bodyOf_shr op0 op1 s) h0 h1 (aluShr_of_count a hlo hhi)
  case count =>
    simp only [List.mem_cons, List.not_mem_nil, or_false] at hi
    obtain rfl | rfl := hi
    · exact exec_of_binaryBody_error_value (bodyOf_shl op0 op1 s) h0 h1 (aluShl_error.mpr ⟨hn, rfl⟩)
    · exact exec_of_binaryBody_error_value (bodyOf_shr op0 op1 s) h0 h1 (aluShr_error.mpr ⟨hn, rfl⟩)
  case operands =>
    refine exec_of_operand_error ?_ ?_ <;> revert i <;> simp [firstRead, secondRead]

end Sys2Proof.Machine

/-! The statements about `mov`, the stack instructions, `call` and `ret` (spec/41_misc_move.md R132; spec/42_stack.md R140 to R147;
spec/46_control_transfer.md R212, R220, R221). -/

namespace Sys2Proof.Machine

theorem bodyOf_mov_of_rd_ok {op0 op1 : Ref} {s : State} {b : Word} (h : rd 1 op1 s = .ok b) :
    bodyOf (.mov op0 op1) s = wr 0 op0 b s := by
  simp only [bodyOf, h, except_ok_bind]

/-- Settles O19: `mov` reads operand 1, then makes the checked write to operand 0. -/
theorem movCopiesTheSource : Obligations.MovCopiesTheSource := by
  unfold Obligations.MovCopiesTheSource
  refine fun s op0 op1 => ⟨rfl, fun b hb hv => ?value, fun f hf => exec_of_firstRead_error rfl hf, fun b f hb hf => ?fault⟩
  case value => exact exec_of_ok ((bodyOf_mov_of_rd_ok hb).trans (wr_of_valid hv 0 b))
  case fault => exact exec_of_error ((bodyOf_mov_of_rd_ok hb).trans hf)

/-! The push and the pop, by what `sp` holds (spec/42_stack.md R140, R141). -/

/-- The state after a push of `v` onto a stack whose top is at `a`. -/
theorem pushWord_of_lt {s : State} {a : Nat} (hsp : s.sp = .addr a) (hlim : s.cfg.stackLimit < a) (v : Word) :
    pushWord v s = .ok ((s.setSp (.addr (a - 1))).memWrite (a - 1) v) :=
  pushWord_ok.mpr ⟨a, hsp, hlim, rfl⟩

theorem pushWord_of_int {s : State} {w : Word} (hsp : s.sp = .int w) (v : Word) :
    pushWord v s = .error (.tagFault s.cfg.idxSp) :=
  pushWord_error.mpr (.inl ⟨w, hsp, rfl⟩)

theorem pushWord_of_le {s : State} {a : Nat} (hsp : s.sp = .addr a) (hlim : a ≤ s.cfg.stackLimit) (v : Word) :
    pushWord v s = .error (.stackOverflow a) :=
  pushWord_error.mpr (.inr ⟨a, hsp, hlim, rfl⟩)

theorem popRead_of_lt {s : State} {a : Nat} (hsp : s.sp = .addr a) (hlt : a < s.cfg.memCells) :
    popRead s = .ok (s.memRead a) :=
  popRead_ok.mpr ⟨a, hsp, hlt, rfl⟩

theorem popRead_of_int {s : State} {w : Word} (hsp : s.sp = .int w) : popRead s = .error (.tagFault s.cfg.idxSp) :=
  popRead_error.mpr (.inl ⟨w, hsp, rfl⟩)

theorem popRead_of_le {s : State} {a : Nat} (hsp : s.sp = .addr a) (hle : s.cfg.memCells ≤ a) :
    popRead s = .error (.stackUnderflow a) :=
  popRead_error.mpr (.inr ⟨a, hsp, hle, rfl⟩)

/-! `push` and `pushf`. -/

theorem bodyOf_push_of_rd_ok {op0 : Ref} {s : State} {v : Word} (h : rd 0 op0 s = .ok v) :
    bodyOf (.push op0) s = pushWord v s := by
  simp only [bodyOf, h, except_ok_bind]

/-- Settles O20: `push` reads its operand, then pushes the word. -/
theorem pushStoresBelowTheTop : Obligations.PushStoresBelowTheTop := by
  unfold Obligations.PushStoresBelowTheTop
  refine fun s op0 => ⟨fun v a hv hsp hlim => ?value, fun f hf => exec_of_firstRead_error rfl hf,
    fun v w hv hsp => ?tag, fun v a hv hsp hlim => ?overflow⟩
  case value => exact exec_of_ok ((bodyOf_push_of_rd_ok hv).trans (pushWord_of_lt hsp hlim v))
  case tag => exact exec_of_error ((bodyOf_push_of_rd_ok hv).trans (pushWord_of_int hsp v))
  case overflow => exact exec_of_error ((bodyOf_push_of_rd_ok hv).trans (pushWord_of_le hsp hlim v))

theorem bodyOf_pushf (s : State) : bodyOf .pushf s = pushWord (zext s.flags) s := rfl

theorem toNat_zext_flags (f : BitVec 2) : (zext f).toNat = f.toNat :=
  BitVec.toNat_setWidth_of_le (by decide)

/-- Settles O22: `pushf` pushes `FLAGS`, widened without a sign. -/
theorem pushfStoresTheFlags : Obligations.PushfStoresTheFlags := by
  unfold Obligations.PushfStoresTheFlags
  refine fun s => ⟨fun a hsp hlim => ⟨zext s.flags, toNat_zext_flags s.flags, ?value⟩, fun w hsp => ?tag, fun a hsp hlim => ?overflow⟩
  case value => exact exec_of_ok ((bodyOf_pushf s).trans (pushWord_of_lt hsp hlim _))
  case tag => exact exec_of_error ((bodyOf_pushf s).trans (pushWord_of_int hsp _))
  case overflow => exact exec_of_error ((bodyOf_pushf s).trans (pushWord_of_le hsp hlim _))

/-! `pop` and `popf`. -/

theorem bodyOf_eq_popBody_of_mem_pop_popf {i : Instr} {op0 : Ref} (hi : i ∈ [Instr.pop op0, .popf op0]) (s : State) :
    bodyOf i s = popBody op0 s := by
  simp only [List.mem_cons, List.not_mem_nil, or_false] at hi
  obtain rfl | rfl := hi <;> rfl

/-- Settles O21: both bodies are `popBody`, whose one answer and whose faults, in their order, are `popBody_ok` and
`popBody_error`. -/
theorem popAndPopfTakeTheTop : Obligations.PopAndPopfTakeTheTop := by
  unfold Obligations.PopAndPopfTakeTheTop
  intro s op0 i hi
  have hb : bodyOf i s = popBody op0 s := bodyOf_eq_popBody_of_mem_pop_popf hi s
  refine ⟨fun a hsp hlt hv hne => ?value, fun a hsp hlt he => ?popSp, fun w hsp => ?tag, fun a hsp hle => ?underflow,
    fun a v f hsp hlt hf => ?destination⟩
  case value => exact exec_of_ok (hb.trans (popBody_ok.mpr ⟨a, hsp, hlt, hv, hne, rfl⟩))
  case popSp => exact exec_of_error (hb.trans (popBody_error.mpr (.inr (.inr ⟨_, popRead_of_lt hsp hlt, he, rfl⟩))))
  case tag => exact exec_of_error (hb.trans (popBody_error.mpr (.inl (popRead_of_int hsp))))
  case underflow => exact exec_of_error (hb.trans (popBody_error.mpr (.inl (popRead_of_le hsp hle))))
  case destination =>
    exact exec_of_error (hb.trans (popBody_error.mpr (.inr (.inl ⟨_, popRead_of_lt hsp hlt, wr_error.mp hf⟩))))

/-! A push followed by a pop (spec/42_stack.md R146). -/

/-- A read through a reference that does not name `sp` is not disturbed by a move of `sp`. -/
theorem rd_setSp_of_ne {r : Ref} {s : State} (h : r ≠ .registerSlot s.cfg.idxSp) (pos : Fin 2) (x : Slot) :
    rd pos r (s.setSp x) = rd pos r s := by
  cases r with
  | absent | memoryCell => rfl
  | registerSlot i =>
    by_cases hi : i < 17
    · have hne : s.cfg.idxSp ≠ ⟨i, hi⟩ := fun he => h (by rw [he])
      simp only [rd, hi, dite_true, State.reg_setSp, if_neg hne]
    · simp only [rd, hi, dite_false]

/-- What a pop to `y` leaves of a push of `v`. -/
theorem bodyOf_pop_after_push {s : State} {y : Ref} {a : Nat} (v : Word) (hlim : s.cfg.stackLimit < a)
    (hhi : a ≤ s.cfg.memCells) (hy : y.valid s.cfg.memCells = true) (hne : y ≠ .registerSlot s.cfg.idxSp) :
    bodyOf (.pop y) ((s.setSp (.addr (a - 1))).memWrite (a - 1) v) =
      .ok ((((s.setSp (.addr (a - 1))).memWrite (a - 1) v).assign y v).setSp (.addr a)) := by
  refine popBody_ok.mpr ⟨a - 1, by simp, show a - 1 < s.cfg.memCells by omega, hy, hne, ?_⟩
  rw [State.memRead_memWrite_self, Nat.sub_add_cancel (by omega)]

/-- Settles O23: the pop reads the cell that the push wrote and puts `sp` back, and its frame is that of its two writes. -/
theorem pushThenPopGivesTheWordBack : Obligations.PushThenPopGivesTheWordBack := by
  unfold Obligations.PushThenPopGivesTheWordBack
  intro s x y v a hsp hlim hhi hv hy hne
  refine ⟨_, _, exec_of_ok ((bodyOf_push_of_rd_ok hv).trans (pushWord_of_lt hsp hlim v)),
    exec_of_ok (bodyOf_pop_after_push v hlim hhi hy hne), ?rd, by simp, ?cell, fun j hj => ?reg, fun c hc hyc => ?mem, ?rest⟩
  case rd =>
    rw [rd_setSp_of_ne (by simpa using hne)]
    exact rd_assign_self (by simpa using hy) 0 v
  case cell =>
    rw [State.memRead_setSp, State.memRead_assign]
    split
    · rfl
    · exact State.memRead_memWrite_self ..
  case reg =>
    rw [State.reg_setSp, State.reg_assign, if_neg hj]
    simp only [State.assign_cfg, State.memWrite_cfg, State.setSp_cfg]
    split
    · next he => rw [← he, ← hsp, State.sp]
    · next he => exact reg_push_of_ne s he ..
  case mem =>
    rw [State.memRead_setSp, State.memRead_assign, if_neg hyc, State.memRead_memWrite, if_neg hc, State.memRead_setSp]
  case rest => simp

/-! Several pushes (spec/42_stack.md R147). -/

/-- Settles O24: by induction on the words. The first push writes the cell below the top, and the later ones stay below that cell. -/
theorem pushesNeverLeaveTheStackRegion : Obligations.PushesNeverLeaveTheStackRegion := by
  unfold Obligations.PushesNeverLeaveTheStackRegion
  intro vs
  induction vs with
  | nil =>
    intro s a hsp _
    refine ⟨s, rfl, hsp, fun _ _ => rfl, by simp, fun _ _ => rfl, fun hfull v => ?_⟩
    exact pushWord_of_le (by rw [hsp, ← hfull]; rfl) le_rfl v
  | cons v vs ih =>
    intro s a hsp hroom
    rw [List.length_cons] at hroom ⊢
    have hpush := pushWord_of_lt hsp (by omega) v
    obtain ⟨t, ht, htsp, hmem, hcells, hregs, hfull⟩ :=
      ih ((s.setSp (.addr (a - 1))).memWrite (a - 1) v) (a - 1) (by simp) (show s.cfg.stackLimit + vs.length ≤ a - 1 by omega)
    refine ⟨t, ?run, ?sp, fun c hc => ?mem, fun k w hk => ?cells, fun j hj => ?regs, fun hlen => ?full⟩
    case run =>
      rw [List.foldlM_cons, hpush]
      exact ht
    case sp => rw [htsp, Nat.sub_sub, Nat.add_comm 1]
    case mem =>
      rw [hmem c (by omega), State.memRead_memWrite, if_neg (by omega), State.memRead_setSp]
    case cells =>
      cases k with
      | zero =>
        cases hk
        rw [hmem _ (.inr (by omega)), Nat.sub_zero, State.memRead_memWrite_self]
      | succ k =>
        rw [show a - 1 - (k + 1) = a - 1 - 1 - k by omega]
        exact hcells k w hk
    case regs => rw [hregs j hj, reg_push_of_ne s (Ne.symm hj)]
    case full => exact hfull (show s.cfg.stackLimit + vs.length = a - 1 by omega)

/-! `call` and `ret`. -/

theorem bodyOf_call_of_push_error {op0 : Ref} {s : State} {v : Word} {f : Fault} (hip : s.ip = .int v)
    (hpush : pushWord v s = .error f) : bodyOf (.call op0) s = .error f := by
  simp only [bodyOf, readIp_ok.mpr hip, hpush, except_ok_bind, except_error_bind]

/-- Settles O36: `call` pushes first, so the push's faults come before the operand's, and a fault of either is taken on the state
before the push. -/
theorem callPushesItsIndexThenTransfers : Obligations.CallPushesItsIndexThenTransfers := by
  unfold Obligations.CallPushesItsIndexThenTransfers
  refine fun s op0 v hip => ⟨fun a hsp hlim => ⟨fun t ht => ?value, fun f hf => ?operand⟩, fun w hsp => ?tag,
    fun a hsp hlim => ?overflow⟩
  case value => exact exec_of_transfer_ok (bodyOf_call_of_push hip hsp hlim) ht
  case operand => exact exec_of_transfer_error (bodyOf_call_of_push hip hsp hlim) hf
  case tag => exact exec_of_error (bodyOf_call_of_push_error hip (pushWord_of_int hsp v))
  case overflow => exact exec_of_error (bodyOf_call_of_push_error hip (pushWord_of_le hsp hlim v))

theorem bodyOf_ret_of_lt {s : State} {a : Nat} (hsp : s.sp = .addr a) (hlt : a < s.cfg.memCells)
    (hne : s.cfg.idxSp ≠ s.cfg.idxIp) : bodyOf .ret s = .ok ((s.setPc (s.memRead a)).setSp (.addr (a + 1))) := by
  have hadvance : popAdvance (s.setPc (s.memRead a)) = .ok ((s.setPc (s.memRead a)).setSp (.addr (a + 1))) :=
    popAdvance_ok.mpr ⟨a, (State.sp_setPc s _ hne).trans hsp, rfl⟩
  simp only [bodyOf, popRead_of_lt hsp hlt, except_ok_bind, hadvance]

theorem bodyOf_ret_of_popRead_error {s : State} {f : Fault} (h : popRead s = .error f) : bodyOf .ret s = .error f := by
  simp only [bodyOf, h, except_error_bind]

/-- Settles O39: `ret` reads the top, writes `pc`, which is not `sp`, and moves `sp`. -/
theorem retTakesTheReturnIndex : Obligations.RetTakesTheReturnIndex := by
  unfold Obligations.RetTakesTheReturnIndex
  refine fun s => ⟨fun a hsp hlt hne => exec_of_ok (bodyOf_ret_of_lt hsp hlt hne), fun w hsp => ?tag, fun a hsp hle => ?underflow⟩
  case tag => exact exec_of_error (bodyOf_ret_of_popRead_error (popRead_of_int hsp))
  case underflow => exact exec_of_error (bodyOf_ret_of_popRead_error (popRead_of_le hsp hle))

/-- What a completed `call` leaves: `sp` one cell lower, and in that cell the index of the `call`. -/
theorem sp_memRead_of_call {s u : State} {op0 : Ref} {a : Nat} {i : Word} (hne : s.cfg.idxSp ≠ s.cfg.idxIp)
    (hip : s.ip = .int i) (hsp : s.sp = .addr a) (h : bodyOf (.call op0) s = .ok u) :
    s.cfg.stackLimit < a ∧ u.sp = .addr (a - 1) ∧ u.memRead (a - 1) = i := by
  cases bodyOf_effect h with
  | same _ hpush => cases hpush
  | assign hd => cases hd
  | push _ hw => cases hw
  | pop hd => cases hd
  | jump _ hpush => cases hpush
  | call hip' hsp' hlim =>
    cases hip.symm.trans hip'
    cases hsp.symm.trans hsp'
    refine ⟨hlim, ?_, by simp⟩
    rw [State.sp_setPc _ _ (by exact hne), State.memWrite_sp, State.sp_setSp]

/-- Settles O40: the `ret` reads the index that the `call` pushed and the cycle's increment lands one past it. -/
theorem retResumesAfterTheCall : Obligations.RetResumesAfterTheCall := by
  unfold Obligations.RetResumesAfterTheCall
  intro s u v op0 a i hs hip hsp hcall hu hcfg _ hv hvsp hvmem hf
  have hne : s.cfg.idxSp ≠ s.cfg.idxIp := Config.idxSp_ne_idxIp hs.1
  obtain ⟨_, hhi⟩ := hs.sp_bounds hsp
  have hb : bodyOf (.call op0) s = .ok u := bodyOf_ok_of_exec_running hcall hu
  obtain ⟨hlim, husp, humem⟩ := sp_memRead_of_call hne hip hsp hb
  have hvcfg : v.cfg = s.cfg := hcfg.trans (bodyOf_effect hb).cfg_program.1
  have hret : bodyOf .ret v = .ok ((v.setPc i).setSp (.addr a)) := by
    rw [bodyOf_ret_of_lt (hvsp.trans husp) (by rw [hvcfg]; omega) (by rw [hvcfg]; exact hne), hvmem, humem,
      Nat.sub_add_cancel (by omega)]
  have hne' : v.cfg.idxSp ≠ v.cfg.idxIp := hvcfg ▸ hne
  refine ⟨_, step_of_bodyOf_ok hv hf nofun hret, ?pc, ?sp⟩
  case pc => rw [State.advance, State.pc_setPc, State.pc_setSp _ _ (by exact hne'), State.pc_setPc]
  case sp => rw [State.advance, State.sp_setPc _ _ (by exact hne'), State.sp_setSp]

/-! A conditional jump after a `cmp` (spec/46_control_transfer.md R213). -/

/-- A conditional jump whose condition says `fires` is a transfer if `fires` holds, else nothing. -/
theorem exec_of_jumpBody_ite {i : Instr} {c : Bool} {fires : Prop} [Decidable fires] {op0 : Ref} {s : State} {t : Word}
    (hb : bodyOf i s = jumpBody c op0 s) (hc : c = true ↔ fires) (ht : rd 0 op0 s = .ok t) :
    exec i s = if fires then .next (s.setPc (wrap32 (t.toInt - 1))) else .next s := by
  obtain ⟨hfired, hnot⟩ := exec_of_jumpBody hb hc
  split
  · next h => exact (hfired h).1 t ht
  · next h => exact hnot h

/-! The relation that each condition tests on the flags of a `cmp`. -/

theorem condE_compareFlags {a b : Word} : condE (compareFlags a b) = true ↔ a.toInt = b.toInt := by
  rw [condE_iff, getLsbD_zero_compareFlags, decide_eq_true_eq]

theorem condNE_compareFlags {a b : Word} : condNE (compareFlags a b) = true ↔ a.toInt ≠ b.toInt := by
  rw [condNE_iff, getLsbD_zero_compareFlags, decide_eq_false_iff_not]

theorem condG_compareFlags {a b : Word} : condG (compareFlags a b) = true ↔ a.toInt > b.toInt := by
  rw [condG_iff, getLsbD_one_compareFlags, decide_eq_true_eq]

theorem condGE_compareFlags {a b : Word} : condGE (compareFlags a b) = true ↔ a.toInt ≥ b.toInt := by
  rw [condGE_iff, getLsbD_zero_compareFlags, getLsbD_one_compareFlags, decide_eq_true_eq, decide_eq_true_eq]
  omega

theorem condL_compareFlags {a b : Word} : condL (compareFlags a b) = true ↔ a.toInt < b.toInt := by
  rw [condL_iff, getLsbD_zero_compareFlags, getLsbD_one_compareFlags, decide_eq_false_iff_not, decide_eq_false_iff_not]
  omega

theorem condLE_compareFlags {a b : Word} : condLE (compareFlags a b) = true ↔ a.toInt ≤ b.toInt := by
  rw [condLE_iff, getLsbD_one_compareFlags, decide_eq_false_iff_not]
  omega

/-- Settles O38: `cmp` leaves `compareFlags a b`, whose bits are the relations, and does not disturb the read of the target. -/
theorem jumpsAfterCmpFollowTheRelation : Obligations.JumpsAfterCmpFollowTheRelation := by
  unfold Obligations.JumpsAfterCmpFollowTheRelation
  intro s op0 op1 target a b t h0 h1 htarget
  have ht : rd 0 target (s.setFlags (compareFlags a b)) = .ok t :=
    (rd_congr 0 target rfl (fun _ => rfl) (fun _ _ => rfl)).trans htarget
  refine ⟨_, exec_cmp_of_rd_ok h0 h1, ?je, ?jne, ?jg, ?jge, ?jl, ?jle⟩
  case je => exact exec_of_jumpBody_ite (bodyOf_je ..) condE_compareFlags ht
  case jne => exact exec_of_jumpBody_ite (bodyOf_jne ..) condNE_compareFlags ht
  case jg => exact exec_of_jumpBody_ite (bodyOf_jg ..) condG_compareFlags ht
  case jge => exact exec_of_jumpBody_ite (bodyOf_jge ..) condGE_compareFlags ht
  case jl => exact exec_of_jumpBody_ite (bodyOf_jl ..) condL_compareFlags ht
  case jle => exact exec_of_jumpBody_ite (bodyOf_jle ..) condLE_compareFlags ht

end Sys2Proof.Machine

/-! The statements about `ip` as an operand (spec/40_execution_cycle.md R118). Every step here is a completed body, whose state the
instruction's own rule gives, and then the advance of `pc`. -/

namespace Sys2Proof.Machine

/-! The wraps of a value written to `ip` and of the advance that follows (spec/00_scope.md R10). -/

theorem wrap32_toInt_wrap32_add (n m : Int) : wrap32 ((wrap32 n).toInt + m) = wrap32 (n + m) := by
  simp only [wrap32, BitVec.ofInt_add, BitVec.ofInt_toInt]

/-- A write of `v` to `ip` lands one past it. -/
theorem State.advance_setPc (s : State) (v : Word) : (s.setPc v).advance = s.setPc (wrap32 (v.toInt + 1)) := by
  rw [State.advance, State.pc_setPc, State.setPc_setPc]

/-- A write of a wrapped number to `ip` lands one past the number. -/
theorem State.advance_setPc_wrap32 (s : State) (n : Int) : (s.setPc (wrap32 n)).advance = s.setPc (wrap32 (n + 1)) := by
  rw [State.advance_setPc, wrap32_toInt_wrap32_add]

/-- The advance of a state with `i` in `ip`. -/
theorem State.advance_of_ip {s : State} {i : Word} (h : s.ip = .int i) : s.advance = s.setPc (wrap32 (i.toInt + 1)) := by
  rw [State.advance, State.pc_of_ip h]

theorem State.setPc_of_ip {s : State} {i : Word} (h : s.ip = .int i) : s.setPc i = s := by
  refine State.ext_reg rfl rfl (fun j => ?_) rfl rfl rfl rfl rfl
  rw [State.reg_setPc]
  split
  · next hj => rw [← hj, ← h, State.ip]
  · rfl

theorem State.assign_ip (s : State) (v : Word) : s.assign (.registerSlot s.cfg.idxIp) v = s.setPc v :=
  State.assign_registerSlot s s.cfg.idxIp v

theorem rd_ip {s : State} {i : Word} (h : s.ip = .int i) (pos : Fin 2) : rd pos (.registerSlot s.cfg.idxIp) s = .ok i :=
  rd_registerSlot_of_int h pos

/-- The instruction's own index written to any operand leaves that index in `ip`. -/
theorem ip_assign_of_ip {s : State} {i : Word} (h : s.ip = .int i) (r : Ref) : (s.assign r i).ip = .int i := by
  rw [State.ip, State.assign_cfg, State.reg_assign]
  split
  · rfl
  · exact h

/-! Where a step lands whose instruction computes a value into `ip`. -/

section

variable {s : State} {i : Word}

theorem step_of_unaryBody_ip {ins : Instr} {g : Word → Word} (hr : s.status = .running) (hip : s.ip = .int i)
    (hf : fetch s = .ok ins) (hi : ins ≠ .sentinel) (hb : bodyOf ins s = unaryBody g (.registerSlot s.cfg.idxIp) s) :
    step s = .next (s.setPc (g i)).advance := by
  refine step_of_bodyOf_ok hr hf hi (hb.trans (unaryBody_ok.mpr ⟨i, rd_ip hip 0, ?_⟩))
  rw [State.assign_ip]

theorem step_of_binaryBody_ip {ins : Instr} {g : Word → Word → Except Fault Word} {b : Ref} {v w : Word}
    (hr : s.status = .running) (hip : s.ip = .int i) (hf : fetch s = .ok ins) (hi : ins ≠ .sentinel)
    (hb : bodyOf ins s = binaryBody g (.registerSlot s.cfg.idxIp) b s) (hv : rd 1 b s = .ok v) (hw : g i v = .ok w) :
    step s = .next (s.setPc w).advance := by
  refine step_of_bodyOf_ok hr hf hi (hb.trans (binaryBody_ok.mpr ⟨i, v, w, rd_ip hip 0, hv, hw, ?_⟩))
  rw [State.assign_ip]

theorem step_of_binaryBody_ip_error {ins : Instr} {g : Word → Word → Except Fault Word} {b : Ref} {v : Word} {f : Fault}
    (hr : s.status = .running) (hip : s.ip = .int i) (hf : fetch s = .ok ins)
    (hb : bodyOf ins s = binaryBody g (.registerSlot s.cfg.idxIp) b s) (hv : rd 1 b s = .ok v) (hw : g i v = .error f) :
    step s = .next (s.takeFault f) :=
  step_of_bodyOf_error hr hf (hb.trans (binaryBody_error.mpr (.inr (.inr ⟨i, v, rd_ip hip 0, hv, hw⟩))))

end

theorem toInt_aluNot_add_one (a : Word) : wrap32 ((aluNot a).toInt + 1) = wrap32 (-a.toInt) := by
  rw [aluNot_eq_wrap32, wrap32_toInt_wrap32_add, Int.sub_add_cancel]

/-- A pop into `ip`: `sp` is another slot, so the two writes commute. -/
theorem step_of_popBody_ip {s : State} {ins : Instr} {a : Nat} (hr : s.status = .running) (hf : fetch s = .ok ins)
    (hi : ins ≠ .sentinel) (hb : bodyOf ins s = popBody (.registerSlot s.cfg.idxIp) s) (hsp : s.sp = .addr a)
    (hlt : a < s.cfg.memCells) (hne : s.cfg.idxSp ≠ s.cfg.idxIp) :
    step s = .next ((s.setSp (.addr (a + 1))).setPc (wrap32 ((s.memRead a).toInt + 1))) := by
  have hne' : Ref.registerSlot s.cfg.idxIp ≠ .registerSlot s.cfg.idxSp := fun h => hne (Fin.ext (Ref.registerSlot.inj h)).symm
  have hswap : (s.setPc (s.memRead a)).setSp (.addr (a + 1)) = (s.setSp (.addr (a + 1))).setPc (s.memRead a) :=
    State.setReg_comm s _ _ hne.symm
  rw [step_of_bodyOf_ok hr hf hi (hb.trans (popBody_ok.mpr ⟨a, hsp, hlt, valid_registerSlot _ _, hne', rfl⟩)),
    State.assign_ip, hswap, State.advance_setPc]

theorem destOperand_of_writesIp {i : Instr} (h : writesIp i = true) : destOperand i = none := by
  cases i with
  | jmp | call | ret | je | jne | jg | jge | jl | jle => rfl
  | _ => cases h

/-- A completed body leaves an integer in the slot it names as its destination. -/
theorem BodyEffect.ip_of_destOperand {ins : Instr} {s u : State} (h : BodyEffect s ins u)
    (hd : destOperand ins = some (.registerSlot s.cfg.idxIp)) (hne : s.cfg.idxSp ≠ s.cfg.idxIp) : ∃ v, u.ip = .int v := by
  have hassign : ∀ v, (s.assign (.registerSlot s.cfg.idxIp) v).ip = .int v := fun v => by rw [State.assign_ip, State.ip_setPc]
  cases h with
  | same hd' => cases hd'.symm.trans hd
  | assign hd' =>
    cases hd'.symm.trans hd
    exact ⟨_, hassign _⟩
  | push hp => cases (destOperand_of_pushes hp).symm.trans hd
  | pop hd' =>
    cases hd'.symm.trans hd
    exact ⟨_, by rw [State.ip_setSp _ _ (by rw [State.assign_cfg]; exact hne), hassign]⟩
  | jump hw => cases (destOperand_of_writesIp hw).symm.trans hd
  | setRem | setFlags | emit | call | ret | halt => cases hd

/-- Settles O16: each case is the instruction's own body with `ip` as an operand, then the advance. -/
theorem ipAsAnOperandTransfersControl : Obligations.IpAsAnOperandTransfersControl := by
  unfold Obligations.IpAsAnOperandTransfersControl
  intro s i hr hip hwf ip
  have hne : s.cfg.idxSp ≠ s.cfg.idxIp := Config.idxSp_ne_idxIp hwf
  have hrd : ∀ pos, rd pos ip s = .ok i := rd_ip hip
  refine ⟨fun b v hf hv => ?mov, fun hf => ?inc, fun hf => ?dec, fun b v hf hv => ?add, fun hf => ?rem,
    fun a hf hsp hlt => ?pop, fun hf => ?jmp, fun a hf hsp hlim => ?call, fun a hf hv => ?movFrom,
    fun a hf hsp hlim => ?push, fun hf => ?prn, fun b v hf hv => ?cmp,
    fun b v hv => ⟨fun hf => ?sub, fun hf => ?mul, fun hf => ?xor, fun hf => ?or, fun hf => ?and⟩, fun hf => ?not,
    fun ins u hf hd he hu => ?destination⟩
  case mov =>
    rw [← State.advance_setPc, ← State.assign_ip]
    exact step_of_bodyOf_ok hr hf nofun ((bodyOf_mov_of_rd_ok hv).trans (wr_of_valid (valid_registerSlot _ _) 0 v))
  case inc =>
    rw [step_of_unaryBody_ip hr hip hf nofun (bodyOf_inc ip s), State.advance_setPc_wrap32, Int.add_assoc]
    rfl
  case dec =>
    rw [step_of_unaryBody_ip hr hip hf nofun (bodyOf_dec ip s), State.advance_setPc_pred, State.setPc_of_ip hip]
  case add =>
    rw [step_of_binaryBody_ip hr hip hf nofun (bodyOf_add ip b s) hv rfl, State.advance_setPc_wrap32]
  case rem =>
    rw [← State.advance_setPc, ← State.assign_ip]
    exact step_of_bodyOf_ok hr hf nofun (wr_of_valid (valid_registerSlot _ _) 0 s.rem)
  case pop =>
    obtain hf | hf := hf
    · exact step_of_popBody_ip hr hf nofun rfl hsp hlt hne
    · exact step_of_popBody_ip hr hf nofun rfl hsp hlt hne
  case jmp =>
    rw [step_of_transfer hr hf nofun (bodyOf_jmp ip s) (hrd 0), State.setPc_of_ip hip]
  case call =>
    have hip' : ((s.setSp (.addr (a - 1))).memWrite (a - 1) i).ip = .int i := (State.ip_setSp s _ hne).trans hip
    rw [step_of_transfer hr hf nofun (bodyOf_call_of_push hip hsp hlim) (rd_ip hip' 0), State.setPc_of_ip hip']
  case movFrom =>
    rw [← State.advance_of_ip (ip_assign_of_ip hip a)]
    exact step_of_bodyOf_ok hr hf nofun ((bodyOf_mov_of_rd_ok (hrd 1)).trans (wr_of_valid hv 0 i))
  case push =>
    have hip' : ((s.setSp (.addr (a - 1))).memWrite (a - 1) i).ip = .int i := (State.ip_setSp s _ hne).trans hip
    rw [← State.advance_of_ip hip']
    exact step_of_bodyOf_ok hr hf nofun ((bodyOf_push_of_rd_ok (hrd 0)).trans (pushWord_of_lt hsp hlim i))
  case prn =>
    rw [← State.advance_of_ip (s := { s with out := s.out ++ [i] }) hip]
    exact step_of_bodyOf_ok hr hf nofun (bodyOf_prn_ok.mpr ⟨i, hrd 0, rfl⟩)
  case cmp =>
    rw [← State.advance_of_ip (s := s.setFlags (compareFlags i v)) hip]
    exact step_of_bodyOf_ok hr hf nofun (bodyOf_cmp_ok.mpr ⟨i, v, hrd 0, hv, rfl⟩)
  case sub =>
    rw [step_of_binaryBody_ip hr hip hf nofun (bodyOf_sub ip b s) hv rfl, State.advance_setPc_wrap32]
  case mul =>
    rw [step_of_binaryBody_ip hr hip hf nofun (bodyOf_mul ip b s) hv rfl, State.advance_setPc_wrap32]
  case xor =>
    rw [step_of_binaryBody_ip hr hip hf nofun (bodyOf_xor ip b s) hv rfl, State.advance_setPc, aluXor]
  case or =>
    rw [step_of_binaryBody_ip hr hip hf nofun (bodyOf_or ip b s) hv rfl, State.advance_setPc, aluOr]
  case and =>
    rw [step_of_binaryBody_ip hr hip hf nofun (bodyOf_and ip b s) hv rfl, State.advance_setPc, aluAnd]
  case not =>
    rw [step_of_unaryBody_ip hr hip hf nofun (bodyOf_not ip s), State.advance_setPc, toInt_aluNot_add_one]
  case destination =>
    obtain ⟨v, hv⟩ := (bodyOf_effect (bodyOf_ok_of_exec_running he hu)).ip_of_destOperand hd hne
    refine ⟨v, hv, ?_⟩
    rw [← State.advance_of_ip hv]
    exact step_of_exec_running hr hf he hu

/-- Settles O55: `div`, `shl` and `shr` with `ip` as the destination, by their value functions' answers. -/
theorem divisionsAndShiftsIntoIpTransferControl : Obligations.DivisionsAndShiftsIntoIpTransferControl := by
  unfold Obligations.DivisionsAndShiftsIntoIpTransferControl
  intro s i v b hr hip hv ip
  refine ⟨fun hf => ⟨fun hne => ?div, fun h0 => ?divZero⟩, fun hf hlo hhi => ?shl, fun hf hlo hhi => ?shr, fun hf hn => ?count⟩
  case div =>
    rw [step_of_binaryBody_ip hr hip hf nofun (bodyOf_div ip b s) hv (aluDiv_of_ne_zero i hne), State.advance_setPc_wrap32]
  case divZero => exact step_of_binaryBody_ip_error hr hip hf (bodyOf_div ip b s) hv (aluDiv_error.mpr ⟨h0, rfl⟩)
  case shl =>
    rw [step_of_binaryBody_ip hr hip hf nofun (bodyOf_shl ip b s) hv (aluShl_of_count i hlo hhi), State.advance_setPc_wrap32]
  case shr =>
    rw [step_of_binaryBody_ip hr hip hf nofun (bodyOf_shr ip b s) hv (aluShr_of_count i hlo hhi), State.advance_setPc,
      toInt_sshiftRight_eq_div]
  case count =>
    obtain hf | hf := hf
    · exact step_of_binaryBody_ip_error hr hip hf (bodyOf_shl ip b s) hv (aluShl_error.mpr ⟨hn, rfl⟩)
    · exact step_of_binaryBody_ip_error hr hip hf (bodyOf_shr ip b s) hv (aluShr_error.mpr ⟨hn, rfl⟩)

end Sys2Proof.Machine

/-! The statements about the host's side: creation, the launch of a run and the text of the output (spec/70_reset_and_hazards.md R280,
R282; spec/40_execution_cycle.md R111; spec/10_state.md R39; spec/47_output.md R241). -/

namespace Sys2Proof.Machine

/-! Creation. -/

@[simp] theorem State.create_cfg (cfg : Config) : (State.create cfg).cfg = cfg := rfl

theorem State.create_sp (cfg : Config) : (State.create cfg).sp = .addr cfg.memCells := by
  rw [State.sp, State.create_cfg, State.create_reg, if_pos (.inl rfl)]

theorem State.create_sb (cfg : Config) : (State.create cfg).sb = .addr cfg.memCells := by
  rw [State.sb, State.create_cfg, State.create_reg, if_pos (.inr rfl)]

/-- A general slot is created with the integer 0 (decision D27). -/
theorem State.create_reg_of_ne {cfg : Config} {i : Fin 17} (hsp : i ≠ cfg.idxSp) (hsb : i ≠ cfg.idxSb) :
    (State.create cfg).reg i = .int 0 := by
  rw [State.create_reg, if_neg (by simp [hsp, hsb])]

/-- Settles O46: the slots are those of `create_reg`, the memory block is the empty list, which reads 0. -/
theorem creationLeavesTheResetValues : Obligations.CreationLeavesTheResetValues := by
  unfold Obligations.CreationLeavesTheResetValues
  refine ⟨fun cfg s hs => ?create, rfl, rfl, State.create_sp Config.default, State.create_reg_of_ne (by decide) (by decide)⟩
  subst hs
  exact ⟨State.create_sp cfg, State.create_sb cfg, fun i => State.create_reg_of_ne, Memory.readCell_nil _, fun _ => rfl,
    rfl, rfl, rfl, rfl, rfl, rfl, rfl⟩

/-- Creation puts addresses into `sp` and `sb` only, both the end of the block. -/
theorem State.wf_create {cfg : Config} (h : cfg.wf) : (State.create cfg).wf := by
  refine ⟨h, fun i => ?_, (by decide : (0 : BitVec 2) ≠ 3), ⟨List.Pairwise.nil, nofun⟩, nofun⟩
  have hle : cfg.stackLimit ≤ cfg.memCells := Nat.sub_le _ _
  rw [State.create_reg, State.create_cfg]
  split
  · next hi => rcases hi with rfl | rfl <;> simp [slotOk, hle]
  · rfl

theorem Config.default_wf : Config.default.wf := by decide

/-- Settles O47: what creation leaves meets the invariant for every admissible configuration, the default one included. -/
theorem creationIsWellFormed : Obligations.CreationIsWellFormed := by
  unfold Obligations.CreationIsWellFormed
  exact ⟨fun cfg => State.wf_create, State.wf_create Config.default_wf⟩

/-! The launch (spec/70_reset_and_hazards.md R282): create, load, launch cells, run. -/

theorem State.wf.load {s : State} (h : s.wf) (p : Program) : (s.load p).wf := h

/-- Launch cells inside the block keep a state well formed. -/
theorem State.wf.poke {s : State} (h : s.wf) {cells : List (Nat × Word)} (hcells : ∀ cv ∈ cells, cv.1 < s.cfg.memCells) :
    (s.poke cells).wf := by
  induction cells generalizing s with
  | nil => exact h
  | cons cv t ih =>
    exact ih (h.memWrite (hcells cv (.head _)) cv.2) fun x hx => hcells x (.tail _ hx)

/-- What the launch writes are made on: the created state with its Program. -/
theorem State.launch_eq (cfg : Config) (p : Program) (cells : List (Nat × Word)) :
    State.launch cfg p cells = { ((State.create cfg).load p) with mem := (((State.create cfg).load p).poke cells).mem }.beginRun := by
  rw [State.launch, ← State.poke_eq]

theorem State.beginRun_ip (s : State) : s.beginRun.ip = .int s.program.start := State.ip_setPc s s.program.start

/-- `run` writes no slot but `ip`. -/
theorem State.beginRun_reg_of_ne (s : State) {j : Fin 17} (h : j ≠ s.cfg.idxIp) : s.beginRun.reg j = s.reg j := by
  rw [State.beginRun, State.setStatus_reg, State.reg_setPc, if_neg h.symm]

/-- A slot other than `ip` after the launch is as creation leaves it. -/
theorem State.launch_reg_of_ne {cfg : Config} (p : Program) (cells : List (Nat × Word)) {j : Fin 17} (h : j ≠ cfg.idxIp) :
    (State.launch cfg p cells).reg j = (State.create cfg).reg j := by
  rw [State.launch_eq]
  exact State.beginRun_reg_of_ne _ h

theorem State.launch_ip (cfg : Config) (p : Program) (cells : List (Nat × Word)) :
    (State.launch cfg p cells).ip = .int p.start := by
  rw [State.launch_eq]
  exact State.beginRun_ip _

/-- Settles O48: loading changes the Program alone, each launch write keeps the invariant, and `run` writes an integer. -/
theorem launchIsWellFormed : Obligations.LaunchIsWellFormed := by
  unfold Obligations.LaunchIsWellFormed
  refine ⟨fun cfg p cells hcfg hcells => ⟨?wf, rfl, State.launch_ip cfg p cells⟩,
    fun s => ⟨s.beginRun_ip, rfl, fun j => s.beginRun_reg_of_ne, rfl, rfl, rfl, rfl, rfl, rfl⟩⟩
  exact ((((State.wf_create hcfg).load p).poke hcells).setPc _).setStatus .running

/-- The cells after the launch are those the launch writes leave. -/
theorem State.launch_memRead (cfg : Config) (p : Program) (cells : List (Nat × Word)) (c : Nat) :
    (State.launch cfg p cells).memRead c = (((State.create cfg).load p).poke cells).memRead c := rfl

/-- The last launch write to a cell decides its value. -/
theorem State.memRead_poke_of_last (s : State) (before : List (Nat × Word)) (c : Nat) (v : Word)
    {after : List (Nat × Word)} (h : ∀ cv ∈ after, cv.1 ≠ c) : (s.poke (before ++ (c, v) :: after)).memRead c = v := by
  rw [State.poke_append, State.poke_cons, State.memRead_poke_of_ne _ h, State.memRead_memWrite_self]

/-- Settles O56: the launch writes change the memory block alone, and `run` writes `ip` and the status alone. -/
theorem launchStateIsTheResetStateWithItsCells : Obligations.LaunchStateIsTheResetStateWithItsCells := by
  unfold Obligations.LaunchStateIsTheResetStateWithItsCells
  intro cfg p cells s ⟨_, _, _, _, _, _, hspip, hsbip⟩ _ hs
  have heq := State.launch_eq cfg p cells
  have hcfg : s.cfg = cfg := by rw [hs, heq]; rfl
  have hslot : ∀ j, j ≠ cfg.idxIp → s.reg j = (State.create cfg).reg j := fun j hj => by
    rw [hs, State.launch_reg_of_ne p cells hj]
  refine ⟨by rw [hs, heq]; rfl, hcfg, fun before c v after hcells hafter => ?last, fun c hc => ?untouched, fun a ha => ?bytes, ?sp,
    ?sb, fun j hsp hsb hip => (hslot j hip).trans (State.create_reg_of_ne hsp hsb), by rw [hs, heq]; rfl,
    by rw [hs, heq]; rfl, by rw [hs, heq]; rfl, by rw [hs, State.launch_ip], by rw [hs, heq]; rfl⟩
  case last => rw [hs, State.launch_memRead, hcells, State.memRead_poke_of_last _ before c v hafter]
  case untouched =>
    rw [hs, State.launch_memRead, State.memRead_poke_of_ne _ hc]
    exact Memory.readCell_nil _ c
  case bytes =>
    rw [hs]
    exact State.byteView_poke_of_outside ((State.create cfg).load p) ha
  case sp => rw [State.sp, hcfg, hslot _ hspip, ← State.create_sp cfg, State.sp, State.create_cfg]
  case sb => rw [State.sb, hcfg, hslot _ hsbip, ← State.create_sb cfg, State.sb, State.create_cfg]

/-! The text of the output (spec/47_output.md R241). -/

/-- Core's numeral of a positive number does not begin with `0`. -/
theorem head?_toDigits_ne_zero {n : Nat} (h : 0 < n) : (Nat.toDigits 10 n).head? ≠ some '0' := by
  induction n using Nat.strongRecOn with
  | _ n ih =>
    by_cases hlt : n < 10
    · have hdigit : ∀ k < 10, 0 < k → Nat.digitChar k ≠ '0' := by decide
      rw [Nat.toDigits_of_lt_base hlt]
      exact fun he => hdigit n hlt h (Option.some.inj he)
    · have hsplit : Nat.toDigits 10 n = Nat.toDigits 10 (n / 10) ++ Nat.toDigits 10 (n % 10) := by
        rw [Nat.toDigits_append_toDigits (by decide) (by omega) (by omega), Nat.div_add_mod]
      rw [hsplit, List.head?_append_of_ne_nil _ Nat.toDigits_ne_nil]
      exact ih (n / 10) (by omega) (by omega)

/-- Settles O42: core's decimal numeral has digits only and denotes the number, and the numeral of a positive number has no leading
zero. -/
theorem outputLineIsTheDecimalNumeral : Obligations.OutputLineIsTheDecimalNumeral := by
  unfold Obligations.OutputLineIsTheDecimalNumeral
  intro v
  refine ⟨Nat.toDigits 10 v.toInt.natAbs, rfl, Nat.toDigits_ne_nil, fun c hc => ?digit, fun h => ?noLeadingZero, ?value⟩
  case digit =>
    have hdigit := Nat.isDigit_of_mem_toDigits (by decide) (by decide) hc
    simpa [Char.isDigit, Char.le_def] using hdigit
  case noLeadingZero =>
    have hzero : v.toInt.natAbs = 0 := Nat.eq_zero_of_not_pos fun hpos => head?_toDigits_ne_zero hpos h
    rw [hzero]
    exact Nat.toDigits_of_lt_base (by decide)
  case value => exact Nat.ofDigitChars_toDigits (by decide) (by decide)

end Sys2Proof.Machine
